-- ==== Sys2Proof/Word.lean ====
section
/-! DEFINITION. The types of the block's values: command words, the vector port, vectors of bits and
matrices of bits (spec/00_scope.md R9 to R11, spec/20_memory.md R70). -/

namespace Sys2Proof

/-- A command word, and every 32-bit scalar of a response (30_encoding R90, 20_memory R71). -/
abbrev Word := BitVec 32

/-- The wires of the vector ports `din` and `dout`. An N_MAX-bit port uses bits [N_MAX-1:0]; N_MAX is
at most 255 (00_scope R6, 20_memory R70). -/
abbrev PortVec := BitVec 255

/-- A symbol, in the low SYMW bits (20_memory R65). -/
abbrev Symbol := BitVec 16

/-- A vector over GF(2): a sequence of bits, element 0 first (00_scope R9, R10). -/
abbrev Bits := List Bool

/-- A matrix over GF(2): its number of columns and its rows, row 0 first (00_scope R9). -/
structure Matrix where
  cols : Nat
  rows : List Bits
deriving DecidableEq, Repr

end Sys2Proof
end

