-- ==== Sys2Proof/Config.lean ====
section
/-! DEFINITION. What an implementation of the block fixes (the capacities, the candidate enumeration) and the
one free value (the draws of the randomness source). -/

namespace Sys2Proof

/-- The synthesis-time capacities (00_scope R6): N_MAX, R_MAX, A_MAX, SYMW, RNDW. -/
structure Caps where
  nMax : Nat
  rMax : Nat
  aMax : Nat
  symw : Nat
  rndw : Nat
deriving DecidableEq, Repr

/-- The bounds R6 puts on the capacities. R6 bounds RNDW nowhere; that it fits its 8-bit field of CAP0
(10_state R36) is DEDUCED (assumption log 10). -/
abbrev Caps.wf (c : Caps) : Prop :=
  1 ≤ c.nMax ∧ c.nMax ≤ 255 ∧ 1 ≤ c.rMax ∧ c.rMax ≤ 16 ∧ c.rMax < c.nMax ∧ c.aMax ≤ 65535 ∧
    1 ≤ c.symw ∧ c.symw ≤ 16 ∧ c.rndw ≤ 255

/-- One value of an instance's candidate enumeration ENUM, a parameter of the model (00_scope R7, 10_state R46):
ENUM(k, n, i) is `vector`. A list of these is an enumeration as plain data: what it lists, and the reading of
43_syndrome_table R204 where it lists nothing (`Sys2Proof.Machine.candidateOf`; assumption log 15). -/
structure Candidate where
  k : Nat
  n : Nat
  i : Nat
  vector : Bits
deriving DecidableEq, Repr

/-- The default instance of R6, the one of spec/95_test_vectors.md. -/
def Config.defaultCaps : Caps :=
  { nMax := 32, rMax := 16, aMax := 256, symw := 8, rndw := 32 }

/-- The t-th draw of the randomness source where no test bench queued one: a free value, under no law
(60_exceptions R362; 93_implementation_defined U2, U3). It has no body: nothing is known of it. -/
opaque Config.freeDraw : Nat → Nat

end Sys2Proof
end

