-- ==== Sys2Proof/Syntax.lean ====
section
/-! DEFINITION. The fourteen commands of the block, one constructor per row of spec/opcode_table.json
(spec/30_encoding.md R100). The vector operand `din` travels on its own port, not in the word (R93). -/

namespace Sys2Proof

/-- The selector of MUL and RDM: which matrix view (30_encoding R105). -/
inductive Sel where
  | g   -- 0: the generator matrix
  | h   -- 1: the parity-check matrix
  | gt  -- 2: the transpose of G
  | ht  -- 3: the transpose of H
deriving DecidableEq, Repr

/-- A command with the operands its word carries (30_encoding R91 to R96, R100). -/
inductive Instr where
  /-- NOP, op 0x00 (45_construct_and_access R280). -/
  | nop
  /-- RESET, op 0x01 (R281). -/
  | reset
  /-- CONSTRUCT k, n, op 0x02 (R285). -/
  | construct (k n : BitVec 8)
  /-- LDSYM len, sym; message on din, op 0x03 (R292). -/
  | ldsym (len : BitVec 8) (sym : Symbol)
  /-- SEAL, op 0x04 (R296). -/
  | sealCode
  /-- MUL len, sel; vector on din, op 0x10 (40_gf2_algebra R134). -/
  | mul (len : BitVec 8) (sel : Sel)
  /-- WT len; vector on din, op 0x11 (R146). -/
  | wt (len : BitVec 8)
  /-- RDM sel, row, op 0x20 (R300). -/
  | rdm (sel : Sel) (idx : BitVec 16)
  /-- RDST address, op 0x21 (43_syndrome_table R212). -/
  | rdst (idx : BitVec 16)
  /-- RDSTO position, op 0x22 (R214). -/
  | rdsto (idx : BitVec 16)
  /-- RDCD entry, op 0x23 (R306). -/
  | rdcd (idx : BitVec 16)
  /-- RDREG register, op 0x24 (R312). -/
  | rdreg (idx : BitVec 16)
  /-- DEC len; received vector on din, op 0x30 (44_decoder R244). -/
  | dec (len : BitVec 8)
  /-- DECL len; received vector on din, op 0x31 (R250). -/
  | decl (len : BitVec 8)
deriving DecidableEq, Repr

end Sys2Proof
end

