-- ==== Sys2Proof/WellFormed.lean ====
section
/-! DEFINITION. Which commands have a word at all on an instance with symbols of SYMW bits. The types of
Syntax.lean bound every field but one: the symbol of LDSYM (spec/30_encoding.md R95). -/

namespace Sys2Proof

/-- "Bits of `sym` at and above SYMW are zero" (30_encoding R95, R110). -/
def symbolFits (symw : Nat) (sym : Symbol) : Bool :=
  decide (sym.toNat < 2 ^ symw)

/-- A command that has a word on an instance with SYMW = `symw`. -/
def Instr.wellFormed (symw : Nat) : Instr → Bool
  | .ldsym _ sym => symbolFits symw sym
  | .nop | .reset | .construct _ _ | .sealCode | .mul _ _ | .wt _ | .rdm _ _ | .rdst _ | .rdsto _
  | .rdcd _ | .rdreg _ | .dec _ | .decl _ => true

end Sys2Proof
end

