-- ==== Sys2Proof/Decode.lean ====
section
/-! DEFINITION. The decoder and the encoder of command words (spec/30_encoding.md). Decoding is total:
a word is one of the fourteen commands, or reserved for a named reason (R110). It depends on SYMW and on
nothing else: "Decoding never depends on PHASE, on K or N, or on any other state" (R110). -/

namespace Sys2Proof

/-- Why a word is reserved (30_encoding R110). Executing it ends with IllegalCommand whichever it is. -/
inductive Reserved where
  | opcode      -- an op that is not in the table
  | zeroField   -- a non-zero bit in a field that the format calls zero
  | selector    -- sel above 3 in MUL or RDM, or not 0 where it must be 0
  | symbolBits  -- a bit of sym at or above SYMW set in LDSYM
deriving DecidableEq, Repr

/-- Bits [hi:lo] fields of a word (R90, R96: "taken from the word as it stands"). -/
def opField (w : Word) : BitVec 8 := w.extractLsb' 24 8
def byte2 (w : Word) : BitVec 8 := w.extractLsb' 16 8
def byte1 (w : Word) : BitVec 8 := w.extractLsb' 8 8
def byte0 (w : Word) : BitVec 8 := w.extractLsb' 0 8
def half0 (w : Word) : BitVec 16 := w.extractLsb' 0 16
def low24 (w : Word) : BitVec 24 := w.extractLsb' 0 24

/-- The selector numbers of R105; "Values 4 to 255 are reserved". -/
def selOfByte (b : BitVec 8) : Option Sel :=
  match b.toNat with
  | 0 => some .g
  | 1 => some .h
  | 2 => some .gt
  | 3 => some .ht
  | _ => none

def Sel.byte : Sel → BitVec 8
  | .g => 0
  | .h => 1
  | .gt => 2
  | .ht => 3

/-- Format Z (R91): no operands, cmd[23:0] = 0. -/
def decodeZ (i : Instr) (w : Word) : Except Reserved Instr :=
  if low24 w = 0 then .ok i else .error .zeroField

/-- Format P (R92): k = cmd[23:16], n = cmd[15:8], cmd[7:0] = 0. -/
def decodeP (i : BitVec 8 → BitVec 8 → Instr) (w : Word) : Except Reserved Instr :=
  if byte0 w = 0 then .ok (i (byte2 w) (byte1 w)) else .error .zeroField

/-- Format V (R93) with a selector (MUL): len = cmd[23:16], sel = cmd[15:8] in 0 to 3, cmd[7:0] = 0. -/
def decodeVSel (i : BitVec 8 → Sel → Instr) (w : Word) : Except Reserved Instr :=
  if byte0 w = 0 then
    match selOfByte (byte1 w) with
    | some sel => .ok (i (byte2 w) sel)
    | none => .error .selector
  else .error .zeroField

/-- Format V (R93) with sel = 0 (WT, DEC, DECL). -/
def decodeV (i : BitVec 8 → Instr) (w : Word) : Except Reserved Instr :=
  if byte0 w = 0 then
    if byte1 w = 0 then .ok (i (byte2 w)) else .error .selector
  else .error .zeroField

/-- Format X (R94) with a selector (RDM): sel = cmd[23:16] in 0 to 3, idx = cmd[15:0]. -/
def decodeXSel (i : Sel → BitVec 16 → Instr) (w : Word) : Except Reserved Instr :=
  match selOfByte (byte2 w) with
  | some sel => .ok (i sel (half0 w))
  | none => .error .selector

/-- Format X (R94) with sel = 0 (RDST, RDSTO, RDCD, RDREG). -/
def decodeX (i : BitVec 16 → Instr) (w : Word) : Except Reserved Instr :=
  if byte2 w = 0 then .ok (i (half0 w)) else .error .selector

/-- Format S (R95): len = cmd[23:16], sym = cmd[15:0] with no bit at or above SYMW. -/
def decodeS (symw : Nat) (i : BitVec 8 → Symbol → Instr) (w : Word) : Except Reserved Instr :=
  if symbolFits symw (half0 w) then .ok (i (byte2 w) (half0 w)) else .error .symbolBits

/-- The opcode map of R100. -/
def decode (symw : Nat) (w : Word) : Except Reserved Instr :=
  match (opField w).toNat with
  | 0x00 => decodeZ .nop w
  | 0x01 => decodeZ .reset w
  | 0x02 => decodeP .construct w
  | 0x03 => decodeS symw .ldsym w
  | 0x04 => decodeZ .sealCode w
  | 0x10 => decodeVSel .mul w
  | 0x11 => decodeV .wt w
  | 0x20 => decodeXSel .rdm w
  | 0x21 => decodeX .rdst w
  | 0x22 => decodeX .rdsto w
  | 0x23 => decodeX .rdcd w
  | 0x24 => decodeX .rdreg w
  | 0x30 => decodeV .dec w
  | 0x31 => decodeV .decl w
  | _ => .error .opcode

/-- The op of a command (R100). -/
def Instr.opcode : Instr → BitVec 8
  | .nop => 0x00
  | .reset => 0x01
  | .construct _ _ => 0x02
  | .ldsym _ _ => 0x03
  | .sealCode => 0x04
  | .mul _ _ => 0x10
  | .wt _ => 0x11
  | .rdm _ _ => 0x20
  | .rdst _ => 0x21
  | .rdsto _ => 0x22
  | .rdcd _ => 0x23
  | .rdreg _ => 0x24
  | .dec _ => 0x30
  | .decl _ => 0x31

/-- The word of a command: the fields at the places of R91 to R95, the op of R100. -/
def encode : Instr → Word
  | .nop => 0x00#8 ++ 0#24
  | .reset => 0x01#8 ++ 0#24
  | .construct k n => 0x02#8 ++ k ++ n ++ 0#8
  | .ldsym len sym => 0x03#8 ++ len ++ sym
  | .sealCode => 0x04#8 ++ 0#24
  | .mul len sel => 0x10#8 ++ len ++ sel.byte ++ 0#8
  | .wt len => 0x11#8 ++ len ++ 0#8 ++ 0#8
  | .rdm sel idx => 0x20#8 ++ sel.byte ++ idx
  | .rdst idx => 0x21#8 ++ 0#8 ++ idx
  | .rdsto idx => 0x22#8 ++ 0#8 ++ idx
  | .rdcd idx => 0x23#8 ++ 0#8 ++ idx
  | .rdreg idx => 0x24#8 ++ 0#8 ++ idx
  | .dec len => 0x30#8 ++ len ++ 0#8 ++ 0#8
  | .decl len => 0x31#8 ++ len ++ 0#8 ++ 0#8

/-- One row of the opcode map of R100: a word `w` is the row's command when `w &&& mask = pattern`. -/
structure OpRow where
  mnemonic : String
  pattern : Word
  mask : Word
deriving DecidableEq, Repr

/-- The mask of LDSYM: "0xFF000000 OR (0xFFFF AND NOT (2^SYMW − 1))" (R100). -/
def ldsymMask (symw : Nat) : Word :=
  0xFF000000#32 ||| (0xFFFF#32 &&& ~~~ BitVec.ofNat 32 (2 ^ symw - 1))

/-- The fourteen rows of R100, written out as the spec's table has them. `decode` is not made from them:
that the two agree is a statement. -/
def opcodeRows (symw : Nat) : List OpRow :=
  [ ⟨"NOP", 0x00000000#32, 0xFFFFFFFF#32⟩,
    ⟨"RESET", 0x01000000#32, 0xFFFFFFFF#32⟩,
    ⟨"CONSTRUCT", 0x02000000#32, 0xFF0000FF#32⟩,
    ⟨"LDSYM", 0x03000000#32, ldsymMask symw⟩,
    ⟨"SEAL", 0x04000000#32, 0xFFFFFFFF#32⟩,
    ⟨"MUL", 0x10000000#32, 0xFF00FCFF#32⟩,
    ⟨"WT", 0x11000000#32, 0xFF00FFFF#32⟩ ] ++
  [ ⟨"RDM", 0x20000000#32, 0xFFFC0000#32⟩,
    ⟨"RDST", 0x21000000#32, 0xFFFF0000#32⟩,
    ⟨"RDSTO", 0x22000000#32, 0xFFFF0000#32⟩,
    ⟨"RDCD", 0x23000000#32, 0xFFFF0000#32⟩,
    ⟨"RDREG", 0x24000000#32, 0xFFFF0000#32⟩,
    ⟨"DEC", 0x30000000#32, 0xFF00FFFF#32⟩,
    ⟨"DECL", 0x31000000#32, 0xFF00FFFF#32⟩ ]

/-- The mnemonic of R100 for a command. -/
def Instr.mnemonic : Instr → String
  | .nop => "NOP"
  | .reset => "RESET"
  | .construct _ _ => "CONSTRUCT"
  | .ldsym _ _ => "LDSYM"
  | .sealCode => "SEAL"
  | .mul _ _ => "MUL"
  | .wt _ => "WT"
  | .rdm _ _ => "RDM"
  | .rdst _ => "RDST"
  | .rdsto _ => "RDSTO"
  | .rdcd _ => "RDCD"
  | .rdreg _ => "RDREG"
  | .dec _ => "DEC"
  | .decl _ => "DECL"

/-- The command that the decoder reads from the low `nbits` bits of `w`, numbered as
spec/opcode_table.json numbers them; the table shows the LDSYM row for SYMW = 8, the default instance. A
command word is one 32-bit value, never split (20_memory R63), so no byte order enters. -/
def decodeTableWord (nbits w : Nat) : Option Instr :=
  match decode Config.defaultCaps.symw (BitVec.ofNat 32 (w % 2 ^ nbits)) with
  | .ok i => some i
  | .error _ => none

end Sys2Proof
end

