-- ==== Sys2Proof/Machine/State.lean ====
section
/-! DEFINITION. The state of the block as plain data (spec/10_state.md R20), the ports and the host's side
of them as the model's own fields (R46, spec/20_memory.md R70, R71), and the state after reset (R45). -/

namespace Sys2Proof.Machine

/-- PHASE (10_state R21). Its numbers are `Phase.number` in Flags.lean. -/
inductive Phase where
  | empty    -- no code constructed
  | loading  -- G, H and the syndrome table are built; the dictionary is being filled
  | ready    -- the dictionary is sealed
  | faulted  -- a DimensionMismatch occurred
deriving DecidableEq, Repr

/-- The error codes (60_exceptions R331). Their numbers are `ErrorCode.code` in Flags.lean. -/
inductive ErrorCode where
  | invalidParameters
  | dimensionMismatch
  | illegalCommand
  | wrongPhase
  | rangeError
  | capacityExceeded
  | duplicateCodeword
  | emptyFallback
  | faulted
deriving DecidableEq, Repr

/-- The five response fields (20_memory R71); a field that is not named is zero. -/
structure Response where
  status : BitVec 8 := 0
  tags : BitVec 8 := 0
  val : Word := 0
  sym : Symbol := 0
  dout : PortVec := 0
deriving DecidableEq, Repr

/-- An entry of the codeword dictionary CD (10_state R32). -/
structure Entry where
  cw : Bits
  sym : Symbol
deriving DecidableEq, Repr

/-- The live locations of the syndrome table ROM: (address, error vector) pairs, addresses strictly rising.
A listed address has V = 1, an unlisted one V = 0 and no ERR content (10_state R28, R30 f). -/
abbrev Memory := List (Nat × Bits)

/-- What the outside can do to the block: present a command word with the vector on `din` (20_memory R70,
R75), assert the reset input between commands (70_reset_and_hazards R380), or assert it while a command is
executing that has by then taken up to `taken` draws (R383). -/
inductive HostEvent where
  | command (word : Word) (din : PortVec)
  | resetInput
  | resetDuring (word : Word) (din : PortVec) (taken : Nat)
deriving DecidableEq, Repr

/-- The block's memories, to say which one a fault is about. -/
inductive Storage where
  | g
  | h
  | st
  | ord
  | cd
deriving DecidableEq, Repr

/-- Why the machine stops. Every error of the spec is a NEXT state (60_exceptions R340), so this is not one. -/
inductive Fault where
  /-- A command reads storage that is no part of the state: G or H not of the shape that K and N say, or ORD,
  CD or a listed address of ST not there for a count that says it is. The spec gives such a read no meaning
  (93_implementation_defined U4, U5: `refuse`). Raised by MUL, LDSYM, RDM, RDSTO, RDCD, DEC and DECL. SAFE: it
  stops, and no run from reset comes to it. -/
  | absent (m : Storage)
deriving DecidableEq, Repr

/-- Why an instruction has no meaning. -/
inductive Refusal where
  /-- The instruction is not modelled. Raised only by an arm of exec; no arm does. SAFE: it stops. -/
  | notModelled (mnemonic : String)
deriving DecidableEq, Repr

/-- The architectural state is exactly the first sixteen fields (10_state R20). The last seven are the MODEL's
own: parameters of the spec's step relation (R46) and the ports, which stand here because a step is a
function of the state alone (assumption log 1 to 4, 15). -/
structure State where
  phase : Phase
  k : BitVec 8
  n : BitVec 8
  g : Matrix
  h : Matrix
  st : Memory
  ord : List Nat
  stCount : BitVec 16
  candCount : BitVec 16
  cd : List Entry
  cdCount : BitVec 16
  decCount : BitVec 32
  fb1Count : BitVec 32
  fb2Count : BitVec 32
  errbits : BitVec 10
  lastErr : BitVec 8
  /-- The capacities of the instance (00_scope R6); no step writes them. -/
  caps : Caps
  /-- The candidate enumeration of the instance (00_scope R7, 10_state R46); no step writes it. -/
  enum : List Candidate
  /-- What the host will do, oldest first (R46: "the sequence of commands the host will issue"). -/
  inbox : List HostEvent
  /-- The vector port as sampled with the current command (70_reset_and_hazards R391). -/
  din : PortVec
  /-- Draws queued by a test bench (60_exceptions R362: "from a fixed list"), oldest first; past them
  a draw is a free value. -/
  draws : List Nat
  /-- How many draws have been taken: the index of the next free draw. -/
  drawCount : Nat
  /-- The response the last step gave, if it gave one; nothing reads it (10_state R37). -/
  resp : Option Response
deriving DecidableEq, Repr

/-- The state after reset (10_state R45). "The contents of G, H, ST, ORD and CD are unspecified after reset,
and are unobservable ... A model may represent them after reset as absent." -/
def State.reset : State :=
  { phase := .empty, k := 0, n := 0
    g := ⟨0, []⟩, h := ⟨0, []⟩, st := [], ord := []
    stCount := 0, candCount := 0, cd := [], cdCount := 0
    decCount := 0, fb1Count := 0, fb2Count := 0, errbits := 0, lastErr := 0
    caps := Config.defaultCaps, enum := [], inbox := [], din := 0, draws := [], drawCount := 0, resp := none }

end Sys2Proof.Machine
end

