-- ==== Sys2Proof/Machine/Flags.lean ====
section
/-! DEFINITION. The numbers of phases and errors, the result tags, and the saturating count: everything the
spec writes as a flag, a code or a counter step (spec/10_state.md R21, R34, R35, R39; 60_exceptions R331). -/

namespace Sys2Proof.Machine

/-- The 2-bit coding of PHASE (10_state R21). -/
def Phase.number : Phase → BitVec 2
  | .empty => 0
  | .loading => 1
  | .ready => 2
  | .faulted => 3

/-- The status code of an error (60_exceptions R331). -/
def ErrorCode.code : ErrorCode → BitVec 8
  | .invalidParameters => 1
  | .dimensionMismatch => 2
  | .illegalCommand => 3
  | .wrongPhase => 4
  | .rangeError => 5
  | .capacityExceeded => 6
  | .duplicateCodeword => 7
  | .emptyFallback => 8
  | .faulted => 9

/-- ERRBITS with the bit of an error set, the others kept (10_state R35). -/
def setErrBit (bits : BitVec 10) (e : ErrorCode) : BitVec 10 :=
  bits ||| (1#10 <<< e.code.toNat)

/-- The `tags` byte (10_state R39): bit 0 SYN_FB, bit 1 CW_FB, bit 2 ZS, bit 3 V; "Bits 7 to 4 are zero". -/
def tagsByte (synFb cwFb zs v : Bool) : BitVec 8 :=
  0#4 ++ BitVec.ofBool v ++ BitVec.ofBool zs ++ BitVec.ofBool cwFb ++ BitVec.ofBool synFb

/-- sat32(c + 1) = min(c + 1, 2^32 - 1) (44_decoder R244, 10_state R34). -/
def satIncr (c : BitVec 32) : BitVec 32 :=
  BitVec.ofNat 32 (min (c.toNat + 1) (2 ^ 32 - 1))

/-- A counter that counts when `b` holds. -/
def satIncrIf (b : Bool) (c : BitVec 32) : BitVec 32 :=
  if b then satIncr c else c

end Sys2Proof.Machine
end

