-- ==== Sys2Proof/Machine/Gf2.lean ====
section
/-! DEFINITION. Arithmetic over GF(2): sums, products, the vector-matrix product, transposes, Hamming weight
(spec/40_gf2_algebra.md R130 to R133, R140, R145). Sums are exact natural numbers, reduced once at the end. -/

namespace Sys2Proof.Machine

/-- A non-negative integer reduced modulo 2. -/
def parity (x : Nat) : Bool :=
  x % 2 == 1

/-- vadd(u, v)[i] = (u[i] + v[i]) mod 2 (R133). -/
def vadd (u v : Bits) : Bits :=
  List.zipWith (fun a b => parity (a.toNat + b.toNat)) u v

/-- The exact integer sum over i of u[i] * v[i] (R131). -/
def dot (u v : Bits) : Nat :=
  (List.zipWith (fun a b => a.toNat * b.toNat) u v).sum

/-- Column j of a matrix. -/
def column (m : Matrix) (j : Nat) : Bits :=
  m.rows.map fun row => row.getD j false

/-- vecmat(v, M)[j] = (sum over i of v[i] * M[i][j]) mod 2 (R131). -/
def vecmat (v : Bits) (m : Matrix) : Bits :=
  (List.range m.cols).map fun j => parity (dot v (column m j))

/-- The transpose: M^T[j][i] = M[i][j] (R140). -/
def transpose (m : Matrix) : Matrix :=
  ⟨m.rows.length, (List.range m.cols).map (column m)⟩

/-- The product of two matrices, row by row (R136); no command computes it. -/
def matMul (a b : Matrix) : Matrix :=
  ⟨b.cols, a.rows.map fun row => vecmat row b⟩

/-- The all-zero vector. -/
def zeros (len : Nat) : Bits :=
  List.replicate len false

/-- e_i: element i set and every other clear (R135). -/
def unitVec (len i : Nat) : Bits :=
  (List.range len).map fun j => j == i

/-- The Hamming weight: the number of elements equal to 1 (R145). -/
def weight (v : Bits) : Nat :=
  v.count true

/-- A matrix memory that holds exactly an r-by-c matrix. -/
def hasShape (m : Matrix) (r c : Nat) : Bool :=
  m.rows.length == r && m.cols == c && m.rows.all fun row => row.length == c

end Sys2Proof.Machine
end

