-- ==== Sys2Proof/Machine/Operands.lean ====
section
/-! DEFINITION. How vectors travel on the ports: packing, unpacking and the operand forms of a command
(spec/00_scope.md R11, spec/20_memory.md R62 to R65). -/

namespace Sys2Proof.Machine

/-- pack(v) = sum over i of v[i] * 2^(L-1-i): element 0 is the most significant bit (00_scope R11). -/
def pack (v : Bits) : Nat :=
  v.foldl (fun acc b => 2 * acc + b.toNat) 0

/-- unpack_L(x): element i is bit L-1-i of x; bits at and above L are dropped (00_scope R11). -/
def unpack (len x : Nat) : Bits :=
  (List.range len).map fun i => x.testBit (len - 1 - i)

/-- A vector on `dout`: pack(v) in bits [L-1:0], zero above (20_memory R62). -/
def onPort (v : Bits) : PortVec :=
  BitVec.ofNat 255 (pack v)

/-- The vector operand of a command that declares `len` elements: unpack_len(din); bits of din at and above
`len` are ignored (20_memory R62, 30_encoding R96). -/
def State.operand (s : State) (len : Nat) : Bits :=
  unpack len s.din.toNat

/-- A number in the 32-bit field `val` (zext_32). -/
def onVal (x : Nat) : Word :=
  BitVec.ofNat 32 x

end Sys2Proof.Machine
end

