-- ==== Sys2Proof/Machine/Ops.lean ====
section
/-! DEFINITION. The named operations over the state: ending a command with OK or with an error, the checks
that come before a command's own, reset, draws, and reading the memories (spec/60_exceptions.md R335 to
R345, spec/70_reset_and_hazards.md R380, spec/10_state.md R23 to R33). -/

namespace Sys2Proof.Machine

abbrev Result := Host.Outcome State Fault Refusal

/-- The state with a response given for the step. -/
def State.answered (r : Response) (s : State) : State :=
  { s with resp := some r }

/-- `respond(...)`: the command ends with status OK and the named fields; the others are zero (00_scope R12,
20_memory R71). -/
def respond (r : Response) (s : State) : Result :=
  .next (s.answered r)

/-- The response of a command that ends with an error: its code, and zeros (60_exceptions R340). -/
def errorResponse (e : ErrorCode) : Response :=
  { status := e.code }

/-- The phase after an error: only DimensionMismatch changes it (60_exceptions R340, R343). -/
def phaseAfter (e : ErrorCode) (p : Phase) : Phase :=
  match e with
  | .dimensionMismatch => .faulted
  | .invalidParameters | .illegalCommand | .wrongPhase | .rangeError | .capacityExceeded
  | .duplicateCodeword | .emptyFallback | .faulted => p

/-- The state that an error leaves: the error record, the response, the phase, and nothing else (R340). -/
def State.afterError (e : ErrorCode) (s : State) : State :=
  { s with
    resp := some (errorResponse e)
    errbits := setErrBit s.errbits e
    lastErr := e.code
    phase := phaseAfter e s.phase }

/-- `raise E` (60_exceptions R340): this block's taking of an exception. Nothing transfers control and there is
no handler to return from: "the block is at once ready for the next command" (R355). The way out of FAULTED is
`State.cleared`. -/
def raise (e : ErrorCode) (s : State) : Result :=
  .next (s.afterError e)

/-- What RESET and the reset input do to the state (10_state R45, 70_reset_and_hazards R380, R381): every piece
of the block's state to its reset value. What is not the block's stays: its capacities and its enumeration, the host's
commands, the vector port, and the randomness source ("not reset by it", R381). -/
def State.cleared (s : State) : State :=
  { State.reset with
    caps := s.caps, enum := s.enum, inbox := s.inbox, din := s.din
    draws := s.draws, drawCount := s.drawCount }

/-- The fault lock and the phase check, stages 2 and 3 of 60_exceptions R335. `allowed` is the command's row of
the table of 10_state R23 in the phases EMPTY, LOADING and READY; NOP, RESET and RDREG do not come here. -/
def gate (allowed : Phase → Bool) (s : State) (run : Result) : Result :=
  if s.phase = .faulted then raise .faulted s
  else if allowed s.phase then run
  else raise .wrongPhase s

/-- The rows of 10_state R23, as the phases that a command runs in. -/
def inEmpty (p : Phase) : Bool := p == .empty
def inLoading (p : Phase) : Bool := p == .loading
def inReady (p : Phase) : Bool := p == .ready
def inBuilt (p : Phase) : Bool := p == .loading || p == .ready
def inUnfaulted (p : Phase) : Bool := p != .faulted

/-- Goes on with what a memory holds, or stops where it is no part of the state (93_implementation_defined
U4, U5). -/
def withStored {α : Type} (m : Storage) (o : Option α) (run : α → Result) : Result :=
  match o with
  | some a => run a
  | none => .fault (.absent m)

/-- One draw: an unsigned RNDW-bit number, the next one that the test bench queued, else a free value
(60_exceptions R362). -/
def State.drawValue (s : State) : Nat :=
  (match s.draws with
    | d :: _ => d
    | [] => Config.freeDraw s.drawCount) % 2 ^ s.caps.rndw

/-- The state once that draw is taken: the source has advanced. -/
def State.afterDraw (s : State) : State :=
  { s with draws := s.draws.tail, drawCount := s.drawCount + 1 }

/-- k, n and r = n - k: "the values of K, N and N − K" (10_state R24). -/
def State.kVal (s : State) : Nat := s.k.toNat
def State.nVal (s : State) : Nat := s.n.toNat
def State.rVal (s : State) : Nat := s.nVal - s.kVal

/-- G, where the memory holds a k-by-n matrix (10_state R25). -/
def State.genMatrix (s : State) : Option Matrix :=
  if hasShape s.g s.kVal s.nVal then some s.g else none

/-- H, where the memory holds an n-by-(n-k) matrix (10_state R26). -/
def State.parityMatrix (s : State) : Option Matrix :=
  if hasShape s.h s.nVal s.rVal then some s.h else none

/-- The matrix view of a selector (30_encoding R105): GT and HT are read from G and H (10_state R27). -/
def State.view (s : State) : Sel → Option Matrix
  | .g => s.genMatrix
  | .h => s.parityMatrix
  | .gt => s.genMatrix.map transpose
  | .ht => s.parityMatrix.map transpose

/-- rows(view): k for G, n for H, n for GT, n-k for HT (30_encoding R105, 20_memory R67). -/
def State.viewRows (s : State) : Sel → Nat
  | .g => s.kVal
  | .h => s.nVal
  | .gt => s.nVal
  | .ht => s.rVal

/-- The memory behind a view. -/
def storageOf : Sel → Storage
  | .g | .gt => .g
  | .h | .ht => .h

/-- The canonical form of the ROM: addresses strictly rising. -/
abbrev Memory.wf (m : Memory) : Prop :=
  (m.map Prod.fst).Pairwise (· < ·)

/-- ST[a]: the error vector where V = 1, none where V = 0 (10_state R28). -/
def Memory.read (m : Memory) (a : Nat) : Option Bits :=
  (m.find? fun cell => cell.1 == a).map Prod.snd

/-- ST[a].V <- 1; ST[a].ERR <- e, keeping the canonical form. -/
def Memory.write (m : Memory) (a : Nat) (e : Bits) : Memory :=
  match m with
  | [] => [(a, e)]
  | (b, f) :: rest =>
    if a < b then (a, e) :: (b, f) :: rest
    else if a = b then (a, e) :: rest
    else (b, f) :: Memory.write rest a e

/-- ORD[t] for t < ST_COUNT (10_state R29). -/
def State.ordAt (s : State) (t : Nat) : Option Nat :=
  if s.ord.length = s.stCount.toNat then s.ord[t]? else none

/-- The dictionary CD[0 .. CD_COUNT-1] (10_state R32). -/
def State.dictionary (s : State) : Option (List Entry) :=
  if s.cd.length = s.cdCount.toNat then some s.cd else none

end Sys2Proof.Machine
end

