-- ==== Sys2Proof/Machine/Algebra.lean ====
section
/-! DEFINITION. The GF(2) algebra family: MUL and WT (spec/40_gf2_algebra.md R134, R146). -/

namespace Sys2Proof.Machine

/-- MUL len, sel; din (R134): the vector on din times one of the four matrix views. -/
def execMul (len : BitVec 8) (sel : Sel) (s : State) : Result :=
  gate inBuilt s <|
    if len.toNat ≠ s.viewRows sel then raise .dimensionMismatch s
    else withStored (storageOf sel) (s.view sel) fun m =>
      respond { dout := onPort (vecmat (s.operand len.toNat) m) } s

/-- WT len; din (R146): the Hamming weight of the vector on din. It reads no artifact. -/
def execWt (len : BitVec 8) (s : State) : Result :=
  gate inUnfaulted s <|
    if len.toNat > s.caps.nMax then raise .rangeError s
    else respond { val := onVal (weight (s.operand len.toNat)) } s

end Sys2Proof.Machine
end

