-- ==== Sys2Proof/Machine/Generator.lean ====
section
/-! DEFINITION. systematic_gen_matrix_builder, the first stage of CONSTRUCT (spec/41_generator_builder.md). -/

namespace Sys2Proof.Machine

/-- A[i][c]: all ones with the diagonal cleared (R163). -/
def aEntry (i c : Nat) : Bool :=
  i != c

/-- G = [I_k | A] (R162). -/
def genEntry (k i j : Nat) : Bool :=
  if j < k then j == i else aEntry i (j - k)

/-- build_generator(k, n) -> G, k by n (R160). -/
def buildGenerator (k n : Nat) : Matrix :=
  ⟨n, (List.range k).map fun i => (List.range n).map fun j => genEntry k i j⟩

end Sys2Proof.Machine
end

