-- ==== Sys2Proof/Machine/ParityCheck.lean ====
section
/-! DEFINITION. parity_check_matrix_builder, the second stage of CONSTRUCT (spec/42_parity_check_builder.md). -/

namespace Sys2Proof.Machine

/-- M[i][j]. -/
def entry (m : Matrix) (i j : Nat) : Bool :=
  (m.rows.getD i []).getD j false

/-- H[i][j]: the A block of G on top of the identity (R182). -/
def parityEntry (g : Matrix) (k i j : Nat) : Bool :=
  if i < k then entry g i (k + j) else i - k == j

/-- build_parity_check(G, k, n) -> H, n by n-k, "Derived once from G" (R180, R183). -/
def buildParityCheck (g : Matrix) (k n : Nat) : Matrix :=
  ⟨n - k, (List.range n).map fun i => (List.range (n - k)).map fun j => parityEntry g k i j⟩

end Sys2Proof.Machine
end

