-- ==== Sys2Proof/Machine/SyndromeTable.lean ====
section
/-! DEFINITION. syndrome_table_rom: the candidate enumeration, the table builder (the third stage of CONSTRUCT),
and the commands RDST and RDSTO (spec/43_syndrome_table.md). -/

namespace Sys2Proof.Machine

/-- The value of ENUM(k, n, i) that the spec fixes, "its own reading of the document's prose" (00_scope R7; R204):
c[j] = 1 exactly when j < min(w, n) or j = p, with p = i mod n and w = i div n (R203). -/
def enumCandidate (_k n i : Nat) : Bits :=
  (List.range n).map fun j => decide (j < min (i / n) n) || j == i % n

/-- The enumeration that a list of candidates stands for: "a total function ENUM(k, n, i) giving the i-th candidate
error vector (length n)" (00_scope R7). What is listed, taken to length n; R204's value where nothing is. -/
def candidateOf (enum : List Candidate) (k n i : Nat) : Bits :=
  match enum.find? fun c => c.k == k && c.n == n && c.i == i with
  | some c => (List.range n).map fun j => c.vector.getD j false
  | none => enumCandidate k n i

/-- ENUM of the instance (00_scope R7, 10_state R46). -/
def State.enumOf (s : State) : Nat → Nat → Nat → Bits :=
  candidateOf s.enum

/-- T = 2^(n-k) - 1, the number of candidates (R201). -/
def candidateTotal (k n : Nat) : Nat :=
  2 ^ (n - k) - 1

/-- What the builder has written so far: ST and ORD; ST_COUNT is the length of ORD. -/
structure SynTable where
  st : Memory
  ord : List Nat
deriving DecidableEq, Repr

/-- The body of the builder's loop (R205) for one candidate: recorded when its syndrome is not all-zero (R207)
and has no entry yet (R206). -/
def tryCandidate (h : Matrix) (t : SynTable) (c : Bits) : SynTable :=
  let a := pack (vecmat c h)
  if a ≠ 0 ∧ t.st.read a = none then
    { st := t.st.write a c, ord := t.ord ++ [a] }
  else t

/-- build_syndrome_table(H, n, k) (R205): exactly T candidates, in order (R201), from an empty table. -/
def buildSyndromeTable (enum : Nat → Nat → Nat → Bits) (h : Matrix) (n k : Nat) : SynTable :=
  ((List.range (candidateTotal k n)).map (enum k n)).foldl (tryCandidate h) ⟨[], []⟩

/-- RDST idx (R212): one location of the ROM, by address. An invalid location answers zeros. -/
def execRdst (idx : BitVec 16) (s : State) : Result :=
  gate inBuilt s <|
    if idx.toNat ≥ 2 ^ s.rVal then raise .rangeError s
    else
      match s.st.read idx.toNat with
      | some e =>
        respond { tags := tagsByte false false false true, dout := onPort e, val := onVal (weight e) } s
      | none => respond {} s

/-- RDSTO idx (R214): the idx-th entry in insertion order. -/
def execRdsto (idx : BitVec 16) (s : State) : Result :=
  gate inBuilt s <|
    if idx.toNat ≥ s.stCount.toNat then raise .rangeError s
    else withStored .ord (s.ordAt idx.toNat) fun a =>
      withStored .st (s.st.read a) fun e =>
        respond { tags := tagsByte false false false true, val := onVal a, dout := onPort e } s

end Sys2Proof.Machine
end

