-- ==== Sys2Proof/Machine/Construction.lean ====
section
/-! DEFINITION. The construction and access family: NOP, RESET, CONSTRUCT, LDSYM, SEAL, RDM, RDCD, RDREG
(spec/45_construct_and_access.md). -/

namespace Sys2Proof.Machine

/-- NOP (R280). -/
def execNop (s : State) : Result :=
  respond {} s

/-- RESET (R281): the state of reset, and a response. -/
def execReset (s : State) : Result :=
  respond {} s.cleared

/-- What a CONSTRUCT that succeeds writes (R285): the three builders in order, each on the output of the one
before, the table with the instance's enumeration; the counters and the error record are not touched. -/
def State.constructed (k n : BitVec 8) (s : State) : State :=
  let g := buildGenerator k.toNat n.toNat
  let h := buildParityCheck g k.toNat n.toNat
  let t := buildSyndromeTable s.enumOf h n.toNat k.toNat
  { s with
    k := k, n := n, g := g, h := h, st := t.st, ord := t.ord
    stCount := BitVec.ofNat 16 t.ord.length
    candCount := BitVec.ofNat 16 (candidateTotal k.toNat n.toNat)
    cd := [], cdCount := 0, phase := .loading }

/-- CONSTRUCT k, n (R285, R286). -/
def execConstruct (k n : BitVec 8) (s : State) : Result :=
  gate inEmpty s <|
    if k = 0 ∨ n = 0 ∨ n.toNat ≤ k.toNat then raise .invalidParameters s
    else if s.caps.nMax < n.toNat ∨ s.caps.rMax < n.toNat - k.toNat then raise .capacityExceeded s
    else respond { val := (s.constructed k n).stCount.zeroExtend 32 } (s.constructed k n)

/-- What an LDSYM that succeeds writes (R292): one entry of CD, and CD_COUNT. -/
def State.withEntry (cd : List Entry) (c : Bits) (sym : Symbol) (s : State) : State :=
  { s with cd := cd ++ [⟨c, sym⟩], cdCount := s.cdCount + 1 }

/-- LDSYM len, sym; din (R292): the duplicate check comes before the capacity check. -/
def execLdsym (len : BitVec 8) (sym : Symbol) (s : State) : Result :=
  gate inLoading s <|
    if len.toNat ≠ s.kVal then raise .dimensionMismatch s
    else withStored .g s.genMatrix fun g =>
      withStored .cd s.dictionary fun cd =>
        let c := vecmat (s.operand s.kVal) g
        if cd.any fun entry => entry.cw == c then raise .duplicateCodeword s
        else if s.cdCount.toNat = s.caps.aMax then raise .capacityExceeded s
        else
          respond { dout := onPort c, sym := sym, val := s.cdCount.zeroExtend 32 }
            (s.withEntry cd c sym)

/-- What SEAL writes (R296): "State written: PHASE". -/
def State.sealedOff (s : State) : State :=
  { s with phase := .ready }

/-- SEAL (R296). -/
def execSeal (s : State) : Result :=
  gate inLoading s <|
    respond { val := s.cdCount.zeroExtend 32 } s.sealedOff

/-- RDM sel, idx (R300): one row of a matrix view. -/
def execRdm (sel : Sel) (idx : BitVec 16) (s : State) : Result :=
  gate inBuilt s <|
    if idx.toNat ≥ s.viewRows sel then raise .rangeError s
    else withStored (storageOf sel) ((s.view sel).bind fun m => m.rows[idx.toNat]?) fun row =>
      respond { dout := onPort row } s

/-- RDCD idx (R306): one entry of the dictionary. -/
def execRdcd (idx : BitVec 16) (s : State) : Result :=
  gate inBuilt s <|
    if idx.toNat ≥ s.cdCount.toNat then raise .rangeError s
    else withStored .cd (s.dictionary.bind fun cd => cd[idx.toNat]?) fun entry =>
      respond { dout := onPort entry.cw, sym := entry.sym } s

/-- CAP0: N_MAX, R_MAX, SYMW, RNDW in bytes 0 to 3 (10_state R36). -/
def cap0 (c : Caps) : Word :=
  BitVec.ofNat 8 c.rndw ++ BitVec.ofNat 8 c.symw ++ BitVec.ofNat 8 c.rMax ++ BitVec.ofNat 8 c.nMax

/-- CAP1: A_MAX in the low half (10_state R36). -/
def cap1 (c : Caps) : Word :=
  0#16 ++ BitVec.ofNat 16 c.aMax

/-- The register map (10_state R36); "Register numbers not in the table do not exist". -/
def State.register (s : State) (idx : Nat) : Option Word :=
  match idx with
  | 0x0 => some (s.phase.number.zeroExtend 32)
  | 0x1 => some (s.errbits.zeroExtend 32)
  | 0x2 => some (s.lastErr.zeroExtend 32)
  | 0x3 => some (s.k.zeroExtend 32)
  | 0x4 => some (s.n.zeroExtend 32)
  | 0x5 => some (s.stCount.zeroExtend 32)
  | 0x6 => some (s.candCount.zeroExtend 32)
  | 0x7 => some (s.cdCount.zeroExtend 32)
  | 0x8 => some s.decCount
  | 0x9 => some s.fb1Count
  | 0xA => some s.fb2Count
  | 0xB => some (cap0 s.caps)
  | 0xC => some (cap1 s.caps)
  | _ => none

/-- RDREG idx (R312): allowed in every phase, FAULTED included. -/
def execRdreg (idx : BitVec 16) (s : State) : Result :=
  match s.register idx.toNat with
  | some v => respond { val := v } s
  | none => raise .rangeError s

end Sys2Proof.Machine
end

