-- ==== Sys2Proof/Machine/Decoder.lean ====
section
/-! DEFINITION. syndrome_decoder: DEC and DECL (spec/44_decoder.md). -/

namespace Sys2Proof.Machine

/-- Why a decode ends before its last step: an error, raised on the state that the draws so far have left, or
storage that is no part of the state. -/
inductive Stop where
  | error (e : ErrorCode) (s : State)
  | absent (m : Storage)
deriving DecidableEq, Repr

def Stop.result : Stop → Result
  | .error e s => raise e s
  | .absent m => .fault (.absent m)

/-- What step 2 chose: the error vector, whether it is a fallback, whether the syndrome was all-zero. -/
structure Choice where
  err : Bits
  fb1 : Bool
  zs : Bool
deriving DecidableEq, Repr

/-- ST[ORD[t]].ERR. -/
def State.errAt (s : State) (t : Nat) : Except Storage Bits :=
  match s.ordAt t with
  | none => .error .ord
  | some a =>
    match s.st.read a with
    | none => .error .st
    | some e => .ok e

/-- The syndrome fallback (R246): a draw among the recorded entries; EmptyFallback, without a draw, where there
are none (R254). -/
def syndromeFallback (s : State) : Except Stop (Choice × State) :=
  if s.stCount = 0 then .error (.error .emptyFallback s)
  else
    match s.errAt (s.drawValue % s.stCount.toNat) with
    | .ok e => .ok (⟨e, true, false⟩, s.afterDraw)
    | .error m => .error (.absent m)

/-- Step 2 (R242): the all-zero syndrome (R243), an entry of the table, or the fallback, by syndrome address. -/
def chooseError (a : Nat) (s : State) : Except Stop (Choice × State) :=
  if a = 0 then .ok (⟨zeros s.nVal, false, true⟩, s)
  else
    match s.st.read a with
    | some e => .ok (⟨e, false, false⟩, s)
    | none => syndromeFallback s

/-- Steps 1 and 2 of a received vector (R241, R242). -/
def locateError (y : Bits) (s : State) : Except Stop (Choice × State) :=
  match s.parityMatrix with
  | none => .error (.absent .h)
  | some h => chooseError (pack (vecmat y h)) s

/-- Step 4 (R248): the symbol, and whether it is a fallback; EmptyFallback, without a draw, where the dictionary
is empty (R252, R254). -/
def resolveSymbol (x : Bits) (s : State) : Except Stop ((Symbol × Bool) × State) :=
  match s.dictionary with
  | none => .error (.absent .cd)
  | some cd =>
    match cd.find? fun entry => entry.cw == x with
    | some entry => .ok ((entry.sym, false), s)
    | none =>
      if s.cdCount = 0 then .error (.error .emptyFallback s)
      else
        match cd[s.drawValue % s.cdCount.toNat]? with
        | some entry => .ok ((entry.sym, true), s.afterDraw)
        | none => .error (.absent .cd)

/-- The counters after a decode that ended OK (10_state R34, R244, R250). -/
def State.counted (fb1 fb2 : Bool) (s : State) : State :=
  { s with
    decCount := satIncr s.decCount
    fb1Count := satIncrIf fb1 s.fb1Count
    fb2Count := satIncrIf fb2 s.fb2Count }

/-- DEC len; din (R244): steps 1 to 3. -/
def execDec (len : BitVec 8) (s : State) : Result :=
  gate inBuilt s <|
    if len.toNat ≠ s.nVal then raise .dimensionMismatch s
    else
      match locateError (s.operand s.nVal) s with
      | .error stop => stop.result
      | .ok (c, t) =>
        respond
          { dout := onPort (vadd c.err (s.operand s.nVal)), val := onVal (weight c.err)
            tags := tagsByte c.fb1 false c.zs false }
          (t.counted c.fb1 false)

/-- DECL len; din (R250): steps 1 to 5. -/
def execDecl (len : BitVec 8) (s : State) : Result :=
  gate inReady s <|
    if len.toNat ≠ s.nVal then raise .dimensionMismatch s
    else
      match locateError (s.operand s.nVal) s with
      | .error stop => stop.result
      | .ok (c, t) =>
        match resolveSymbol (vadd c.err (s.operand s.nVal)) t with
        | .error stop => stop.result
        | .ok ((q, fb2), t') =>
          respond
            { sym := q, dout := onPort (vadd c.err (s.operand s.nVal)), val := onVal (weight c.err)
              tags := tagsByte c.fb1 fb2 c.zs false }
            (t'.counted c.fb1 fb2)

end Sys2Proof.Machine
end

