-- ==== Sys2Proof/Machine/Dispatch.lean ====
section
/-! DEFINITION. One arm per command (spec/30_encoding.md R100). Stages 2 to 4 of spec/60_exceptions.md R335 are
in the meanings; stage 1, decoding, is in Machine/Command.lean. -/

namespace Sys2Proof.Machine

def exec (i : Instr) (s : State) : Host.Outcome State Fault Refusal :=
  match i with
  | .nop => Sys2Proof.Machine.execNop s
  | .reset => Sys2Proof.Machine.execReset s
  | .construct k n => Sys2Proof.Machine.execConstruct k n s
  | .ldsym len sym => Sys2Proof.Machine.execLdsym len sym s
  | .sealCode => Sys2Proof.Machine.execSeal s
  | .mul len sel => Sys2Proof.Machine.execMul len sel s
  | .wt len => Sys2Proof.Machine.execWt len s
  | .rdm sel idx => Sys2Proof.Machine.execRdm sel idx s
  | .rdst idx => Sys2Proof.Machine.execRdst idx s
  | .rdsto idx => Sys2Proof.Machine.execRdsto idx s
  | .rdcd idx => Sys2Proof.Machine.execRdcd idx s
  | .rdreg idx => Sys2Proof.Machine.execRdreg idx s
  | .dec len => Sys2Proof.Machine.execDec len s
  | .decl len => Sys2Proof.Machine.execDecl len s

end Sys2Proof.Machine
end

