-- ==== Sys2Proof/Machine/Command.lean ====
section
/-! DEFINITION. What the host's events do: a command word decoded and run (spec/60_exceptions.md R335 stage 1,
R345), the reset input (spec/70_reset_and_hazards.md R380, R383), and waiting (R384). -/

namespace Sys2Proof.Machine

/-- The state with the vector port as sampled with a command (70_reset_and_hazards R391). -/
def State.sampled (din : PortVec) (s : State) : State :=
  { s with din := din }

/-- One command: `din` is sampled with it (70_reset_and_hazards R391), the word is decoded, and a word that is
reserved ends with IllegalCommand in every phase (60_exceptions R345). -/
def runCommand (word : Word) (din : PortVec) (s : State) : Result :=
  match decode s.caps.symw word with
  | .ok i => exec i (s.sampled din)
  | .error _ => raise .illegalCommand (s.sampled din)

/-- The reset input (R380): as RESET, but "unlike the input" RESET gives a response; here there is none. -/
def resetByInput (s : State) : Result :=
  .next s.cleared

/-- How many draws a command took. -/
def drawsTaken (s : State) : Result → Nat
  | .next t => t.drawCount - s.drawCount
  | .fault _ => 0
  | .refused _ => 0

/-- The state once `count` draws are taken. -/
def takeDraws : Nat → State → State
  | 0, s => s
  | count + 1, s => takeDraws count s.afterDraw

/-- The reset input during a command (R383): "the command is abandoned: it gives no response, whatever it had
written is discarded with everything else"; of the draws the command takes, those taken before the reset stay
taken, and `taken` says how many these can be. -/
def resetDuringCommand (word : Word) (din : PortVec) (taken : Nat) (s : State) : Result :=
  resetByInput ((takeDraws (min taken (drawsTaken s (runCommand word din s))) s).sampled din)

/-- What one event does. -/
def runEvent (e : HostEvent) (s : State) : Result :=
  match e with
  | .command word din => runCommand word din s
  | .resetInput => resetByInput s
  | .resetDuring word din taken => resetDuringCommand word din taken s

/-- The state once the host's event is taken from the inbox. -/
def State.withInbox (rest : List HostEvent) (s : State) : State :=
  { s with inbox := rest }

/-- The state after waiting: no command, so no response. -/
def State.idle (s : State) : State :=
  { s with resp := none }

/-- One step: the host's next event, or, where it presents nothing, waiting without a response: "It waits for
a command" (R384). -/
def stepEvent (s : State) : Result :=
  match s.inbox with
  | [] => .next s.idle
  | e :: rest => runEvent e (s.withInbox rest)

/-- The state with a command word as the next thing the host presents, the vector port as it is. -/
def State.presenting (s : State) (word : Word) : State :=
  { s with inbox := .command word s.din :: s.inbox }

end Sys2Proof.Machine
end

