-- ==== Sys2Proof/Machine/Step.lean ====
section
/-! DEFINITION. The step of the machine, and the placing of one command word where the step takes it from. -/

namespace Sys2Proof.Machine

/-- One step of the block: one event of the host (spec/20_memory.md R73 to R75). -/
def step (s : State) : Host.Outcome State Fault Refusal :=
  Sys2Proof.Machine.stepEvent s

/-- `s` with the command word `w` (its low `nbits` bits) as the next command the host presents. -/
def State.withFetchWord (s : State) (nbits w : Nat) : State :=
  s.presenting (BitVec.ofNat 32 (w % 2 ^ nbits))

end Sys2Proof.Machine
end

