-- ==== Sys2Proof/Safety.lean ====
section
/-! DEFINITION. What the statements about the machine are said in: the invariant of every run, an error-free run,
and the tables of the spec that the statements compare the machine with. -/

namespace Sys2Proof.Machine

/-- The block's own state is as reset leaves it, but for the error record (spec/10_state.md R45: phase EMPTY is
entered by reset alone, and in it only the error record changes). -/
abbrev State.NothingBuilt (s : State) : Prop :=
  s.k = 0 ∧ s.n = 0 ∧ s.g = ⟨0, []⟩ ∧ s.h = ⟨0, []⟩ ∧ s.st = [] ∧ s.ord = [] ∧ s.stCount = 0 ∧
    s.candCount = 0 ∧ s.cd = [] ∧ s.cdCount = 0 ∧ s.decCount = 0 ∧ s.fb1Count = 0 ∧ s.fb2Count = 0

/-- "1 <= K < N <= N_MAX and N − K <= R_MAX" (10_state R24). -/
abbrev State.ParametersOk (s : State) : Prop :=
  1 ≤ s.kVal ∧ s.kVal < s.nVal ∧ s.nVal ≤ s.caps.nMax ∧ s.rVal ≤ s.caps.rMax

/-- G, H and the syndrome table are those of (K, N), the table under the instance's enumeration (10_state R25, R26, R28 to R31). -/
abbrev State.ArtifactsOk (s : State) : Prop :=
  s.g = buildGenerator s.kVal s.nVal ∧ s.h = buildParityCheck s.g s.kVal s.nVal ∧
    (⟨s.st, s.ord⟩ : SynTable) = buildSyndromeTable s.enumOf s.h s.nVal s.kVal ∧
    s.stCount = BitVec.ofNat 16 s.ord.length ∧
    s.candCount = BitVec.ofNat 16 (candidateTotal s.kVal s.nVal)

/-- The dictionary: CD_COUNT entries, at most A_MAX, pairwise distinct codewords (each the codeword of its first k
bits), symbols of SYMW bits (10_state R32, R33). -/
abbrev State.DictionaryOk (s : State) : Prop :=
  s.cd.length = s.cdCount.toNat ∧ s.cd.length ≤ s.caps.aMax ∧ (s.cd.map Entry.cw).Nodup ∧
    ∀ e ∈ s.cd, e.cw = vecmat (e.cw.take s.kVal) s.g ∧ e.sym.toNat < 2 ^ s.caps.symw

/-- The fallbacks counted are among the decodes counted (10_state R34). -/
abbrev State.CountersOk (s : State) : Prop :=
  s.fb1Count ≤ s.decCount ∧ s.fb2Count ≤ s.decCount

/-- The error record (10_state R35, 60_exceptions R331, R343): bit 0 is 0; LAST_ERR is 0, exactly when no error
has occurred, or a code whose bit is set; FAULTED only after a DimensionMismatch. -/
abbrev State.RecordOk (s : State) : Prop :=
  s.errbits.getLsbD 0 = false ∧ s.lastErr.toNat ≤ 9 ∧ (s.lastErr = 0 ↔ s.errbits = 0) ∧
    (s.lastErr ≠ 0 → s.errbits.getLsbD s.lastErr.toNat = true) ∧
    (s.phase = .faulted → s.errbits.getLsbD 2 = true)

/-- What holds at reset and is kept by every step. -/
abbrev State.Inv (s : State) : Prop :=
  s.caps.wf ∧ (s.phase = .empty → s.NothingBuilt) ∧
    (s.phase ≠ .empty → s.ParametersOk ∧ s.ArtifactsOk ∧ s.DictionaryOk) ∧ s.CountersOk ∧ s.RecordOk

/-- "a claim that a command sequence ran without error is the claim that ERRBITS is 0 at its end"
(60_exceptions R355). -/
abbrev State.ErrorFree (s : State) : Prop :=
  s.errbits = 0

/-- An entry of the table of 10_state R23. -/
inductive Admission where
  | ok
  | wp
  | f
deriving DecidableEq, Repr

/-- A row of the table of R23, as it stands there: EMPTY, LOADING, READY, FAULTED. -/
def admissionRow (e l r x : Admission) : Phase → Admission
  | .empty => e
  | .loading => l
  | .ready => r
  | .faulted => x

/-- The table of 10_state R23. -/
def admission : Instr → Phase → Admission
  | .nop => admissionRow .ok .ok .ok .ok
  | .reset => admissionRow .ok .ok .ok .ok
  | .rdreg _ => admissionRow .ok .ok .ok .ok
  | .wt _ => admissionRow .ok .ok .ok .f
  | .construct _ _ => admissionRow .ok .wp .wp .f
  | .ldsym _ _ => admissionRow .wp .ok .wp .f
  | .sealCode => admissionRow .wp .ok .wp .f
  | .mul _ _ => admissionRow .wp .ok .ok .f
  | .rdm _ _ => admissionRow .wp .ok .ok .f
  | .rdst _ => admissionRow .wp .ok .ok .f
  | .rdsto _ => admissionRow .wp .ok .ok .f
  | .rdcd _ => admissionRow .wp .ok .ok .f
  | .dec _ => admissionRow .wp .ok .ok .f
  | .decl _ => admissionRow .wp .wp .ok .f

/-- The rows of a view (30_encoding R105), from k and n. -/
def rowsOf (k n : Nat) : Sel → Nat
  | .g => k
  | .h => n
  | .gt => n
  | .ht => n - k

/-- The columns of a view (30_encoding R105). -/
def colsOf (k n : Nat) : Sel → Nat
  | .g => n
  | .h => n - k
  | .gt => k
  | .ht => n

/-- The matrix of a view (30_encoding R105, 40_gf2_algebra R140). -/
def viewOf (g h : Matrix) : Sel → Matrix
  | .g => g
  | .h => h
  | .gt => transpose g
  | .ht => transpose h

/-- The second column of the table of 20_memory R67: `len` differs from the rows of the matrix multiplied. -/
def dimensionFails (k n : Nat) : Instr → Bool
  | .mul len sel => len.toNat != rowsOf k n sel
  | .ldsym len _ => len.toNat != k
  | .dec len => len.toNat != n
  | .decl len => len.toNat != n
  | .nop | .reset | .construct _ _ | .sealCode | .wt _ | .rdm _ _ | .rdst _ | .rdsto _ | .rdcd _
  | .rdreg _ => false

/-- The third column of the table of 20_memory R67: an index or length outside its space. -/
def rangeFails (s : State) : Instr → Bool
  | .wt len => decide (len.toNat > s.caps.nMax)
  | .rdm sel idx => decide (idx.toNat ≥ rowsOf s.kVal s.nVal sel)
  | .rdst idx => decide (idx.toNat ≥ 2 ^ (s.nVal - s.kVal))
  | .rdsto idx => decide (idx.toNat ≥ s.stCount.toNat)
  | .rdcd idx => decide (idx.toNat ≥ s.cdCount.toNat)
  | .rdreg idx => decide (idx.toNat > 0x000C)
  | .nop | .reset | .construct _ _ | .ldsym _ _ | .sealCode | .mul _ _ | .dec _ | .decl _ => false

/-- The commands that have no side effect at all when they end OK (20_memory R68). -/
def isReader : Instr → Bool
  | .nop | .mul _ _ | .wt _ | .rdm _ _ | .rdst _ | .rdsto _ | .rdcd _ | .rdreg _ => true
  | .reset | .construct _ _ | .ldsym _ _ | .sealCode | .dec _ | .decl _ => false

/-- How many elements of `din` a command reads: its declared length (20_memory R62, R70). -/
def dinLength : Instr → Nat
  | .ldsym len _ | .mul len _ | .wt len | .dec len | .decl len => len.toNat
  | .nop | .reset | .construct _ _ | .sealCode | .rdm _ _ | .rdst _ | .rdsto _ | .rdcd _ | .rdreg _ => 0

/-- "clearing the entry at row x, column x" (41_generator_builder R163). -/
def clearAt (rows : List Bits) (x : Nat) : List Bits :=
  rows.modify x fun row => row.set x false

/-- "setting" it (R164, step 2). -/
def setAt (rows : List Bits) (x : Nat) : List Bits :=
  rows.modify x fun row => row.set x true

/-- The document's procedure for G, step by step (41_generator_builder R162, R163, R164): a k-by-n matrix of zeros;
the left k-by-k block made the identity; A from all ones, cleared at (x, x) for each column index x in [0, n-k);
A placed in columns k to n-1. A column index that names no row of A clears nothing. -/
def documentGenerator (k n : Nat) : Matrix :=
  let zero := List.replicate k (List.replicate n false)
  let withIdentity := (List.range k).foldl setAt zero
  let a := (List.range (n - k)).foldl clearAt (List.replicate k (List.replicate (n - k) true))
  ⟨n, List.zipWith (fun row aRow => row.take k ++ aRow) withIdentity a⟩

end Sys2Proof.Machine
end

