-- ==== Sys2Proof/Certificates/Slice0/Obligations.lean ====
section
/-! DEFINITION. The statements about the block, for the provers. Each docstring names the rules of spec/ that it
formalises. A statement about a decode holds for every draw: the draws are queued in `s.draws` or, past them, free
values that nothing is known of (assumption log 3). -/

open Sys2Proof Sys2Proof.Machine

/-! ### Encoding (spec/30_encoding.md) -/

/-- 30_encoding R90 to R96, R100: no bit of an operand is lost by the encoding, for every command that has a word,
whatever SYMW is. -/
def Obligations.DecodeOfEncodeIsTheInstruction : Prop :=
  ∀ (symw : Nat) (i : Instr), i.wellFormed symw = true → decode symw (encode i) = .ok i

/-- 30_encoding R110: a word that decodes to a command is that command's one word; stray bits are not accepted. -/
def Obligations.DecodedWordIsItsEncoding : Prop :=
  ∀ (symw : Nat) (w : Word) (i : Instr), decode symw w = .ok i → encode i = w ∧ i.wellFormed symw = true

/-- 30_encoding R100: a word is the command of the row it matches; the rows are disjoint; a word that fits no row is
reserved, and no other word is. -/
def Obligations.DecodeAgreesWithOpcodeRows : Prop :=
  ∀ (symw : Nat) (w : Word), symw ≤ 16 →
    (∀ i, decode symw w = .ok i →
      ∃ row ∈ opcodeRows symw, row.mnemonic = i.mnemonic ∧ w &&& row.mask = row.pattern) ∧
    (∀ row ∈ opcodeRows symw, ∀ row' ∈ opcodeRows symw,
      w &&& row.mask = row.pattern → w &&& row'.mask = row'.pattern → row = row') ∧
    ((∃ why, decode symw w = .error why) ↔ ∀ row ∈ opcodeRows symw, w &&& row.mask ≠ row.pattern)

/-- 30_encoding R117: the worked encodings, and the reserved examples, for SYMW = 8. -/
def Obligations.WorkedEncodingsDecode : Prop :=
  decode 8 0x02080C00 = .ok (.construct 8 12) ∧ decode 8 0x02040700 = .ok (.construct 4 7) ∧
  decode 8 0x03080041 = .ok (.ldsym 8 0x41) ∧ decode 8 0x04000000 = .ok .sealCode ∧
  decode 8 0x10080000 = .ok (.mul 8 .g) ∧ decode 8 0x100C0100 = .ok (.mul 12 .h) ∧
  decode 8 0x110C0000 = .ok (.wt 12) ∧ decode 8 0x20000003 = .ok (.rdm .g 3) ∧
  decode 8 0x20030002 = .ok (.rdm .ht 2) ∧ decode 8 0x2100000F = .ok (.rdst 15) ∧
  decode 8 0x22000000 = .ok (.rdsto 0) ∧ decode 8 0x23000001 = .ok (.rdcd 1) ∧
  decode 8 0x24000005 = .ok (.rdreg 5) ∧ decode 8 0x300C0000 = .ok (.dec 12) ∧
  decode 8 0x310C0000 = .ok (.decl 12) ∧ decode 8 0x00000000 = .ok .nop ∧ decode 8 0x01000000 = .ok .reset ∧
  decode 8 0x05000000 = .error .opcode ∧ decode 8 0x01000001 = .error .zeroField ∧
  decode 8 0x10080400 = .error .selector ∧ decode 8 0x03080141 = .error .symbolBits

/-! ### The step and the host's events -/

/-- 20_memory R73, R74, 70_reset_and_hazards R391: a step takes the host's oldest command, samples din with it, and is
`exec` of the instruction that the word decodes to. -/
def Obligations.StepRunsTheDecodedInstruction : Prop :=
  ∀ (s : State) (w : Word) (d : PortVec) (rest : List HostEvent) (i : Instr),
    s.inbox = .command w d :: rest → decode s.caps.symw w = .ok i →
      step s = exec i { s with inbox := rest, din := d }

/-- 60_exceptions R345 with R340: a reserved word ends with IllegalCommand (code 3) in every phase, and only the error
record changes. -/
def Obligations.ReservedWordIsIllegalCommand : Prop :=
  ∀ (s : State) (w : Word) (d : PortVec) (rest : List HostEvent) (why : Reserved),
    s.inbox = .command w d :: rest → decode s.caps.symw w = .error why →
      step s = .next { s with
        inbox := rest, din := d, resp := some { status := 3 }, errbits := s.errbits ||| 0x008#10, lastErr := 3 }

/-- 70_reset_and_hazards R384: with no command presented the block runs nothing and gives no response. That an idle
step is a step at all is the model's choice (assumption log 2). -/
def Obligations.StepWaitsWithoutACommand : Prop :=
  ∀ s : State, s.inbox = [] → step s = .next { s with resp := none }

/-- 10_state R45: the values after reset that the spec gives. -/
def Obligations.ResetLeavesTheStatedValues : Prop :=
  State.reset.phase = .empty ∧ Phase.number .empty = 0 ∧ State.reset.k = 0 ∧ State.reset.n = 0 ∧
  State.reset.stCount = 0 ∧ State.reset.candCount = 0 ∧ State.reset.cdCount = 0 ∧ State.reset.decCount = 0 ∧
  State.reset.fb1Count = 0 ∧ State.reset.fb2Count = 0 ∧ State.reset.errbits = 0 ∧ State.reset.lastErr = 0

/-- 45_construct_and_access R281: RESET, from every state, writes what its pseudocode writes and responds OK with every
field zero. -/
def Obligations.ResetCommandClearsTheBlock : Prop :=
  ∀ s : State, ∃ t, exec .reset s = .next t ∧ t.phase = .empty ∧ t.k = 0 ∧ t.n = 0 ∧ t.stCount = 0 ∧
    t.candCount = 0 ∧ t.cdCount = 0 ∧ t.decCount = 0 ∧ t.fb1Count = 0 ∧ t.fb2Count = 0 ∧ t.errbits = 0 ∧
    t.lastErr = 0 ∧ t.resp = some {} ∧ t.caps = s.caps ∧ t.enum = s.enum ∧ t.inbox = s.inbox ∧ t.din = s.din ∧
    t.draws = s.draws ∧ t.drawCount = s.drawCount

/-- 70_reset_and_hazards R380, R381: the reset input, in any phase: the same state as RESET leaves, and no response; the
randomness source is not reset. -/
def Obligations.ResetInputClearsTheBlock : Prop :=
  ∀ (s : State) (rest : List HostEvent), s.inbox = .resetInput :: rest →
    ∃ t, step s = .next t ∧ t.phase = .empty ∧ t.k = 0 ∧ t.n = 0 ∧ t.stCount = 0 ∧ t.candCount = 0 ∧
      t.cdCount = 0 ∧ t.decCount = 0 ∧ t.fb1Count = 0 ∧ t.fb2Count = 0 ∧ t.errbits = 0 ∧ t.lastErr = 0 ∧
      t.resp = none ∧ t.caps = s.caps ∧ t.enum = s.enum ∧ t.inbox = rest ∧ t.draws = s.draws ∧
      t.drawCount = s.drawCount ∧
      exec .reset { s with inbox := rest } = .next { t with resp := some {} }

/-- 70_reset_and_hazards R383: a command that the reset input interrupts gives no response and leaves the reset state;
of the draws it would have taken, those taken by then (at most `taken`) stay taken. -/
def Obligations.ResetDuringACommandAbandonsIt : Prop :=
  ∀ (s u : State) (w : Word) (d : PortVec) (taken : Nat) (rest : List HostEvent),
    s.inbox = .resetDuring w d taken :: rest →
    step { s with inbox := .command w d :: rest } = .next u →
    ∃ t, step s = .next t ∧ t.resp = none ∧
      t.draws = s.draws.drop (min taken (u.drawCount - s.drawCount)) ∧
      t.drawCount = s.drawCount + min taken (u.drawCount - s.drawCount) ∧
      step { s with inbox := .resetInput :: rest } =
        .next { t with din := s.din, draws := s.draws, drawCount := s.drawCount }

/-! ### Errors, phases, checks (spec/60_exceptions.md, spec/10_state.md, spec/20_memory.md) -/

/-- 45_construct_and_access R280: NOP, from every state (every phase, FAULTED included), responds OK with every field zero
and writes no state; its word is the all-zero word and no other. -/
def Obligations.NopOnlyResponds : Prop :=
  (∀ s : State, exec .nop s = .next { s with resp := some {} }) ∧
  (∀ (symw : Nat) (w : Word), decode symw w = .ok .nop ↔ w = 0)

/-- 60_exceptions R340: a command that ends with an error answers its code and zeros, sets the code's bit of ERRBITS and
LAST_ERR, goes to FAULTED for DimensionMismatch only, and changes nothing else; a draw taken at step 2 of a DECL that
then ends with EmptyFallback stays taken. -/
def Obligations.ErrorsArePrecise : Prop :=
  ∀ (s t : State) (w : Word) (d : PortVec) (rest : List HostEvent) (r : Response),
    s.inbox = .command w d :: rest → step s = .next t → t.resp = some r → r.status ≠ 0 →
    ∃ (e : ErrorCode) (ds : List Nat) (dc : Nat),
      r = { status := e.code } ∧
      t = { s with
        inbox := rest, din := d
        phase := if e = .dimensionMismatch then .faulted else s.phase
        errbits := s.errbits ||| (1#10 <<< e.code.toNat), lastErr := e.code
        resp := some r, draws := ds, drawCount := dc } ∧
      ((ds = s.draws ∧ dc = s.drawCount) ∨
        (ds = s.draws.tail ∧ dc = s.drawCount + 1 ∧ e = .emptyFallback ∧
          ∃ len, decode s.caps.symw w = .ok (.decl len)))

/-- 60_exceptions R331: which command raises which code; codes 10 to 255 are never returned, and code 3 comes from
decoding alone. -/
def Obligations.ErrorsComeFromTheirCommands : Prop :=
  ∀ (i : Instr) (s t : State) (r : Response), exec i s = .next t → t.resp = some r →
    r.status.toNat ≤ 9 ∧ r.status ≠ 3 ∧
    (r.status = 1 → ∃ k n, i = .construct k n) ∧
    (r.status = 2 → (∃ len sel, i = .mul len sel) ∨ (∃ len sym, i = .ldsym len sym) ∨ (∃ len, i = .dec len) ∨
      ∃ len, i = .decl len) ∧
    (r.status = 4 → i ≠ .nop ∧ i ≠ .reset ∧ (∀ idx, i ≠ .rdreg idx) ∧ ∀ len, i ≠ .wt len) ∧
    (r.status = 5 → (∃ len, i = .wt len) ∨ (∃ sel idx, i = .rdm sel idx) ∨ (∃ idx, i = .rdst idx) ∨
      (∃ idx, i = .rdsto idx) ∨ (∃ idx, i = .rdcd idx) ∨ ∃ idx, i = .rdreg idx) ∧
    (r.status = 6 → (∃ k n, i = .construct k n) ∨ ∃ len sym, i = .ldsym len sym) ∧
    (r.status = 7 → ∃ len sym, i = .ldsym len sym) ∧
    (r.status = 8 → (∃ len, i = .dec len) ∨ ∃ len, i = .decl len) ∧
    (r.status = 9 → s.phase = .faulted ∧ i ≠ .nop ∧ i ≠ .reset ∧ ∀ idx, i ≠ .rdreg idx)

/-- 10_state R22: PHASE changes only by reset, by a CONSTRUCT or a SEAL that ends OK and by DimensionMismatch, and by each
of them as the rule says; RESET and the reset input set EMPTY from any phase. -/
def Obligations.PhaseChangesOnlyAsListed : Prop :=
  (∀ s t : State, step s = .next t → t.phase ≠ s.phase →
    (t.phase = .empty ∧ ∃ rest, s.inbox = .resetInput :: rest) ∨
    (t.phase = .empty ∧ ∃ w d taken rest, s.inbox = .resetDuring w d taken :: rest) ∨
    ∃ w d rest i r, s.inbox = .command w d :: rest ∧ decode s.caps.symw w = .ok i ∧ t.resp = some r ∧
      ((i = .reset ∧ t.phase = .empty) ∨
        (s.phase = .empty ∧ t.phase = .loading ∧ r.status = 0 ∧ ∃ k n, i = .construct k n) ∨
        (s.phase = .loading ∧ t.phase = .ready ∧ r.status = 0 ∧ i = .sealCode) ∨
        ((s.phase = .loading ∨ s.phase = .ready) ∧ t.phase = .faulted ∧ r = { status := 2 }))) ∧
  (∀ (i : Instr) (s t : State) (r : Response), exec i s = .next t → t.resp = some r →
    (∀ k n, i = .construct k n → r.status = 0 → s.phase = .empty ∧ t.phase = .loading) ∧
    (i = .sealCode → r.status = 0 → s.phase = .loading ∧ t.phase = .ready) ∧
    (r.status = 2 → (s.phase = .loading ∨ s.phase = .ready) ∧ t.phase = .faulted)) ∧
  (∀ s : State, ∃ t, exec .reset s = .next t ∧ t.phase = .empty) ∧
  (∀ (s : State) (rest : List HostEvent), s.inbox = .resetInput :: rest → ∃ t, step s = .next t ∧ t.phase = .empty) ∧
  (∀ (s : State) (w : Word) (d : PortVec) (taken : Nat) (rest : List HostEvent),
    s.inbox = .resetDuring w d taken :: rest → ∃ t, step s = .next t ∧ t.phase = .empty)

/-- 10_state R23: the table, entry by entry: F ends with Faulted (9), WP with WrongPhase (4), each with the error record
alone changed; where the table says ok, neither is the answer. -/
def Obligations.AdmissionIsTheTable : Prop :=
  ∀ (i : Instr) (s : State),
    (admission i s.phase = .f → exec i s = .next { s with
      resp := some { status := 9 }, errbits := s.errbits ||| 0x200#10, lastErr := 9 }) ∧
    (admission i s.phase = .wp → exec i s = .next { s with
      resp := some { status := 4 }, errbits := s.errbits ||| 0x010#10, lastErr := 4 }) ∧
    (admission i s.phase = .ok → ∀ t r, exec i s = .next t → t.resp = some r → r.status ≠ 9 ∧ r.status ≠ 4)

/-- 20_memory R67: the table of the dimension checks and the range checks, both ways, where the phase admits the command;
a length of 0 fails the dimension checks of a code, and WT of length 0 answers 0. A failed dimension check locks the block
(60_exceptions R343). -/
def Obligations.OperandChecksAreTheTable : Prop :=
  ∀ (i : Instr) (s : State), admission i s.phase = .ok →
    (dimensionFails s.kVal s.nVal i = true → exec i s = .next { s with
      resp := some { status := 2 }, errbits := s.errbits ||| 0x004#10, lastErr := 2, phase := .faulted }) ∧
    (rangeFails s i = true → exec i s = .next { s with
      resp := some { status := 5 }, errbits := s.errbits ||| 0x020#10, lastErr := 5 }) ∧
    (∀ t r, exec i s = .next t → t.resp = some r →
      (r.status = 2 → dimensionFails s.kVal s.nVal i = true) ∧ (r.status = 5 → rangeFails s i = true)) ∧
    (s.ParametersOk → (∃ sel, i = .mul 0 sel) ∨ (∃ sym, i = .ldsym 0 sym) ∨ i = .dec 0 ∨ i = .decl 0 →
      dimensionFails s.kVal s.nVal i = true) ∧
    (i = .wt 0 → exec i s = .next { s with resp := some { val := 0 } })

/-- 45_construct_and_access R286: InvalidParameters (1) is tested first, then CapacityExceeded (6); nothing but the error
record is written. -/
def Obligations.ConstructChecksItsParameters : Prop :=
  ∀ (k n : BitVec 8) (s : State), s.phase = .empty →
    (k = 0 ∨ n = 0 ∨ k.toNat ≥ n.toNat → exec (.construct k n) s = .next { s with
      resp := some { status := 1 }, errbits := s.errbits ||| 0x002#10, lastErr := 1 }) ∧
    (k ≠ 0 → k.toNat < n.toNat → n.toNat > s.caps.nMax ∨ n.toNat - k.toNat > s.caps.rMax →
      exec (.construct k n) s = .next { s with
        resp := some { status := 6 }, errbits := s.errbits ||| 0x040#10, lastErr := 6 })

/-! ### What each command does -/

/-- 45_construct_and_access R285: in phase EMPTY, with parameters that pass the checks, CONSTRUCT writes K, N, the output of
the three builders, the counts, an empty dictionary and phase LOADING, and answers ST_COUNT; the counts are not cut off.
The table is the one under the instance's enumeration ENUM, the parameter of 00_scope R7, whichever it is: no value of ENUM
is claimed here (at reset it is R204's, assumption log 5; it stands in the state as data, log 15). That CD's storage is an
empty list is the model's choice (log 6). -/
def Obligations.ConstructBuildsTheCode : Prop :=
  ∀ (k n : BitVec 8) (s : State), s.caps.wf → s.phase = .empty → k ≠ 0 → k.toNat < n.toNat →
    n.toNat ≤ s.caps.nMax → n.toNat - k.toNat ≤ s.caps.rMax →
    ∃ (g h : Matrix) (table : SynTable) (stCount candCount : BitVec 16),
      g = buildGenerator k.toNat n.toNat ∧ h = buildParityCheck g k.toNat n.toNat ∧
      table = buildSyndromeTable s.enumOf h n.toNat k.toNat ∧
      stCount.toNat = table.ord.length ∧ candCount.toNat = 2 ^ (n.toNat - k.toNat) - 1 ∧
      exec (.construct k n) s = .next { s with
        phase := .loading, k := k, n := n, g := g, h := h, st := table.st, ord := table.ord
        stCount := stCount, candCount := candCount, cd := [], cdCount := 0
        resp := some { val := BitVec.ofNat 32 table.ord.length } }

/-- 45_construct_and_access R292: in phase LOADING with len = k, LDSYM encodes the message on din and stores the codeword
with the symbol as the next entry, and answers them with the entry's index; a codeword that is there already is refused
with DuplicateCodeword (7), before a full dictionary with CapacityExceeded (6). -/
def Obligations.LdsymAddsOneEntry : Prop :=
  ∀ (len : BitVec 8) (sym : Symbol) (s : State), s.Inv → s.phase = .loading → len.toNat = s.kVal →
    ∀ c, c = vecmat (unpack s.kVal s.din.toNat) s.g →
    ((∃ e ∈ s.cd, e.cw = c) → exec (.ldsym len sym) s = .next { s with
      resp := some { status := 7 }, errbits := s.errbits ||| 0x080#10, lastErr := 7 }) ∧
    ((∀ e ∈ s.cd, e.cw ≠ c) → s.cdCount.toNat = s.caps.aMax → exec (.ldsym len sym) s = .next { s with
      resp := some { status := 6 }, errbits := s.errbits ||| 0x040#10, lastErr := 6 }) ∧
    ((∀ e ∈ s.cd, e.cw ≠ c) → s.cdCount.toNat ≠ s.caps.aMax → exec (.ldsym len sym) s = .next { s with
      cd := s.cd ++ [⟨c, sym⟩], cdCount := s.cdCount + 1
      resp := some { dout := onPort c, sym := sym, val := BitVec.ofNat 32 s.cdCount.toNat } })

/-- 45_construct_and_access R296: SEAL, in phase LOADING, makes the phase READY and answers CD_COUNT. -/
def Obligations.SealMakesReady : Prop :=
  ∀ s : State, s.phase = .loading → exec .sealCode s = .next { s with
    phase := .ready, resp := some { val := BitVec.ofNat 32 s.cdCount.toNat } }

/-- 40_gf2_algebra R134: in phases LOADING and READY, with len the rows of the view, MUL answers the product of the vector
on din with the view, and writes no state. -/
def Obligations.MulMultipliesByTheView : Prop :=
  ∀ (len : BitVec 8) (sel : Sel) (s : State), s.Inv → s.phase = .loading ∨ s.phase = .ready →
    len.toNat = rowsOf s.kVal s.nVal sel →
    exec (.mul len sel) s = .next { s with
      resp := some { dout := onPort (vecmat (unpack len.toNat s.din.toNat) (viewOf s.g s.h sel)) } }

/-- 40_gf2_algebra R146: outside FAULTED and with len at most N_MAX, WT answers the number of the first len elements of din
that are 1, and writes no state. -/
def Obligations.WtCountsTheOnes : Prop :=
  ∀ (len : BitVec 8) (s : State), s.phase ≠ .faulted → len.toNat ≤ s.caps.nMax →
    ∀ ones, ones = (List.range len.toNat).countP (fun i => s.din.getLsbD (len.toNat - 1 - i)) →
      exec (.wt len) s = .next { s with resp := some { val := BitVec.ofNat 32 ones } }

/-- 45_construct_and_access R300: in phases LOADING and READY, with the row inside the view, RDM answers that row (of the
view's number of columns), and writes no state. -/
def Obligations.RdmReadsOneRow : Prop :=
  ∀ (sel : Sel) (idx : BitVec 16) (s : State), s.Inv → s.phase = .loading ∨ s.phase = .ready →
    idx.toNat < rowsOf s.kVal s.nVal sel →
    ∃ row, (viewOf s.g s.h sel).rows[idx.toNat]? = some row ∧ row.length = colsOf s.kVal s.nVal sel ∧
      exec (.rdm sel idx) s = .next { s with resp := some { dout := onPort row } }

/-- 43_syndrome_table R212: in phases LOADING and READY, with the address below 2^(n-k), RDST answers V = 1, the error
vector and its weight for a location that holds one, and zeros for one that does not. -/
def Obligations.RdstReadsOneLocation : Prop :=
  ∀ (idx : BitVec 16) (s : State), s.phase = .loading ∨ s.phase = .ready → idx.toNat < 2 ^ (s.nVal - s.kVal) →
    (∀ e, s.st.read idx.toNat = some e → exec (.rdst idx) s = .next { s with
      resp := some { tags := 0x08, dout := onPort e, val := BitVec.ofNat 32 (weight e) } }) ∧
    (s.st.read idx.toNat = none → exec (.rdst idx) s = .next { s with resp := some {} })

/-- 43_syndrome_table R214: in phases LOADING and READY, with the position below ST_COUNT, RDSTO answers V = 1, the address
recorded at that position and the error vector stored there. -/
def Obligations.RdstoReadsInInsertionOrder : Prop :=
  ∀ (idx : BitVec 16) (s : State), s.Inv → s.phase = .loading ∨ s.phase = .ready → idx.toNat < s.stCount.toNat →
    ∃ a e, s.ord[idx.toNat]? = some a ∧ s.st.read a = some e ∧ exec (.rdsto idx) s = .next { s with
      resp := some { tags := 0x08, val := BitVec.ofNat 32 a, dout := onPort e } }

/-- 45_construct_and_access R306: in phases LOADING and READY, with the index below CD_COUNT, RDCD answers the entry's
codeword and symbol. -/
def Obligations.RdcdReadsOneEntry : Prop :=
  ∀ (idx : BitVec 16) (s : State), s.Inv → s.phase = .loading ∨ s.phase = .ready → idx.toNat < s.cdCount.toNat →
    ∃ e, s.cd[idx.toNat]? = some e ∧ exec (.rdcd idx) s = .next { s with
      resp := some { dout := onPort e.cw, sym := e.sym } }

/-- 10_state R36 with 45_construct_and_access R312: RDREG answers the thirteen registers as the map lays them out, in every
phase, and a number outside the map ends with RangeError (5); the default instance's CAP0 and CAP1. -/
def Obligations.RdregReadsTheMap : Prop :=
  (∀ s : State,
    exec (.rdreg 0x0000) s = .next { s with resp := some { val := s.phase.number.zeroExtend 32 } } ∧
    exec (.rdreg 0x0001) s = .next { s with resp := some { val := s.errbits.zeroExtend 32 } } ∧
    exec (.rdreg 0x0002) s = .next { s with resp := some { val := s.lastErr.zeroExtend 32 } } ∧
    exec (.rdreg 0x0003) s = .next { s with resp := some { val := s.k.zeroExtend 32 } } ∧
    exec (.rdreg 0x0004) s = .next { s with resp := some { val := s.n.zeroExtend 32 } } ∧
    exec (.rdreg 0x0005) s = .next { s with resp := some { val := s.stCount.zeroExtend 32 } } ∧
    exec (.rdreg 0x0006) s = .next { s with resp := some { val := s.candCount.zeroExtend 32 } } ∧
    exec (.rdreg 0x0007) s = .next { s with resp := some { val := s.cdCount.zeroExtend 32 } } ∧
    exec (.rdreg 0x0008) s = .next { s with resp := some { val := s.decCount } } ∧
    exec (.rdreg 0x0009) s = .next { s with resp := some { val := s.fb1Count } } ∧
    exec (.rdreg 0x000A) s = .next { s with resp := some { val := s.fb2Count } } ∧
    (s.caps.wf →
      ∀ v, v = s.caps.nMax + 2 ^ 8 * s.caps.rMax + 2 ^ 16 * s.caps.symw + 2 ^ 24 * s.caps.rndw →
        exec (.rdreg 0x000B) s = .next { s with resp := some { val := BitVec.ofNat 32 v } }) ∧
    (s.caps.wf → exec (.rdreg 0x000C) s = .next { s with resp := some { val := BitVec.ofNat 32 s.caps.aMax } })) ∧
  (∀ (s : State) (idx : BitVec 16), idx.toNat > 0x000C → exec (.rdreg idx) s = .next { s with
    resp := some { status := 5 }, errbits := s.errbits ||| 0x020#10, lastErr := 5 }) ∧
  (Phase.number .empty = 0 ∧ Phase.number .loading = 1 ∧ Phase.number .ready = 2 ∧ Phase.number .faulted = 3) ∧
  exec (.rdreg 0x000B) State.reset = .next { State.reset with resp := some { val := 0x20081020 } } ∧
  exec (.rdreg 0x000C) State.reset = .next { State.reset with resp := some { val := 0x00000100 } }

/-- 44_decoder R244: DEC, with len = n in phases LOADING and READY, by the four cases of step 2: the all-zero syndrome (the
vector comes back, tag ZS), a table entry, the syndrome fallback (one draw among the entries, tag SYN_FB), and no entry
to fall back on (EmptyFallback, no draw). -/
def Obligations.DecCorrectsTheVector : Prop :=
  ∀ (len : BitVec 8) (s : State), s.Inv → s.phase = .loading ∨ s.phase = .ready → len.toNat = s.nVal →
    ∀ y a, y = unpack s.nVal s.din.toNat → a = pack (vecmat y s.h) →
    (a = 0 → exec (.dec len) s = .next { s with
      decCount := BitVec.ofNat 32 (min (s.decCount.toNat + 1) (2 ^ 32 - 1))
      resp := some { dout := onPort y, tags := 0x04 } }) ∧
    (∀ e, a ≠ 0 → s.st.read a = some e → exec (.dec len) s = .next { s with
      decCount := BitVec.ofNat 32 (min (s.decCount.toNat + 1) (2 ^ 32 - 1))
      resp := some { dout := onPort (vadd e y), val := BitVec.ofNat 32 (weight e) } }) ∧
    (a ≠ 0 → s.st.read a = none → s.stCount ≠ 0 →
      ∃ a' e, s.ord[s.drawValue % s.stCount.toNat]? = some a' ∧ s.st.read a' = some e ∧
        exec (.dec len) s = .next { s with
          decCount := BitVec.ofNat 32 (min (s.decCount.toNat + 1) (2 ^ 32 - 1))
          fb1Count := BitVec.ofNat 32 (min (s.fb1Count.toNat + 1) (2 ^ 32 - 1))
          draws := s.draws.tail, drawCount := s.drawCount + 1
          resp := some { dout := onPort (vadd e y), val := BitVec.ofNat 32 (weight e), tags := 0x01 } }) ∧
    (a ≠ 0 → s.st.read a = none → s.stCount = 0 → exec (.dec len) s = .next { s with
      resp := some { status := 8 }, errbits := s.errbits ||| 0x100#10, lastErr := 8 })

/-- 44_decoder R250, R248, R252: DECL in phase READY with len = n, where step 2 is an exact hit: the symbol of the entry that
matches the corrected vector; where none does, a draw among the entries (tag CW_FB); where there are none,
EmptyFallback and no draw. -/
def Obligations.DeclResolvesAfterAnExactHit : Prop :=
  ∀ (len : BitVec 8) (s : State) (y e x : Bits) (a : Nat), s.Inv → s.phase = .ready → len.toNat = s.nVal →
    y = unpack s.nVal s.din.toNat → a = pack (vecmat y s.h) →
    (a = 0 ∧ e = List.replicate s.nVal false) ∨ (a ≠ 0 ∧ s.st.read a = some e) → x = vadd e y →
    (∀ entry ∈ s.cd, entry.cw = x → exec (.decl len) s = .next { s with
      decCount := BitVec.ofNat 32 (min (s.decCount.toNat + 1) (2 ^ 32 - 1))
      resp := some { sym := entry.sym, dout := onPort x, val := BitVec.ofNat 32 (weight e)
                     tags := if a = 0 then 0x04 else 0x00 } }) ∧
    ((∀ entry ∈ s.cd, entry.cw ≠ x) → s.cdCount ≠ 0 →
      ∃ entry, s.cd[s.drawValue % s.cdCount.toNat]? = some entry ∧ exec (.decl len) s = .next { s with
        decCount := BitVec.ofNat 32 (min (s.decCount.toNat + 1) (2 ^ 32 - 1))
        fb2Count := BitVec.ofNat 32 (min (s.fb2Count.toNat + 1) (2 ^ 32 - 1))
        draws := s.draws.tail, drawCount := s.drawCount + 1
        resp := some { sym := entry.sym, dout := onPort x, val := BitVec.ofNat 32 (weight e)
                       tags := if a = 0 then 0x06 else 0x02 } }) ∧
    ((∀ entry ∈ s.cd, entry.cw ≠ x) → s.cdCount = 0 → exec (.decl len) s = .next { s with
      resp := some { status := 8 }, errbits := s.errbits ||| 0x100#10, lastErr := 8 })

/-- 44_decoder R251, R254: DECL where step 2 is the syndrome fallback: the codeword fallback is forced, two draws are taken
and both tags are set; with an empty dictionary EmptyFallback, the first draw staying taken; with an empty table
EmptyFallback and no draw. -/
def Obligations.DeclAfterASyndromeFallback : Prop :=
  ∀ (len : BitVec 8) (s : State) (y : Bits) (a : Nat), s.Inv → s.phase = .ready → len.toNat = s.nVal →
    y = unpack s.nVal s.din.toNat → a = pack (vecmat y s.h) → a ≠ 0 → s.st.read a = none →
    (s.stCount ≠ 0 → s.cdCount ≠ 0 →
      ∃ a' e entry, s.ord[s.drawValue % s.stCount.toNat]? = some a' ∧ s.st.read a' = some e ∧
        s.cd[s.afterDraw.drawValue % s.cdCount.toNat]? = some entry ∧ exec (.decl len) s = .next { s with
          decCount := BitVec.ofNat 32 (min (s.decCount.toNat + 1) (2 ^ 32 - 1))
          fb1Count := BitVec.ofNat 32 (min (s.fb1Count.toNat + 1) (2 ^ 32 - 1))
          fb2Count := BitVec.ofNat 32 (min (s.fb2Count.toNat + 1) (2 ^ 32 - 1))
          draws := s.draws.tail.tail, drawCount := s.drawCount + 2
          resp := some { sym := entry.sym, dout := onPort (vadd e y), val := BitVec.ofNat 32 (weight e)
                         tags := 0x03 } }) ∧
    (s.stCount ≠ 0 → s.cdCount = 0 → exec (.decl len) s = .next { s with
      draws := s.draws.tail, drawCount := s.drawCount + 1
      resp := some { status := 8 }, errbits := s.errbits ||| 0x100#10, lastErr := 8 }) ∧
    (s.stCount = 0 → exec (.decl len) s = .next { s with
      resp := some { status := 8 }, errbits := s.errbits ||| 0x100#10, lastErr := 8 })

/-! ### What a program can rely on of the decoder -/

/-- 44_decoder R256: in phase READY, DECL of a codeword that the dictionary holds answers its symbol, the codeword, weight 0
and ZS, takes no draw and increments only DEC_COUNT; for every (k, n), an empty table included. -/
def Obligations.RoundTripWithoutErrors : Prop :=
  ∀ (len : BitVec 8) (s : State) (entry : Entry), s.Inv → s.phase = .ready → entry ∈ s.cd → len.toNat = s.nVal →
    unpack s.nVal s.din.toNat = entry.cw →
    exec (.decl len) s = .next { s with
      decCount := BitVec.ofNat 32 (min (s.decCount.toNat + 1) (2 ^ 32 - 1))
      resp := some { sym := entry.sym, dout := onPort entry.cw, tags := 0x04 } }

/-- 44_decoder R247: after an exact hit (the all-zero syndrome, or an entry of the table) the corrected vector has an
all-zero syndrome and is a codeword; after the syndrome fallback, whichever entry is chosen, neither; the decoder changes
exactly wt(e) bits of the received vector. -/
def Obligations.CorrectedVectorIsACodewordOrNever : Prop :=
  ∀ (s : State) (y e x : Bits) (a : Nat), s.Inv → s.phase ≠ .empty → y.length = s.nVal →
    a = pack (vecmat y s.h) → x = vadd e y →
    ((a = 0 ∧ e = List.replicate s.nVal false) ∨ (a ≠ 0 ∧ s.st.read a = some e) →
      vecmat x s.h = List.replicate (s.nVal - s.kVal) false ∧ x = vecmat (x.take s.kVal) s.g ∧
        weight (vadd x y) = weight e) ∧
    (∀ chosen, a ≠ 0 → s.st.read a = none → s.st.read chosen = some e →
      vecmat x s.h ≠ List.replicate (s.nVal - s.kVal) false ∧ x ≠ vecmat (x.take s.kVal) s.g ∧
        weight (vadd x y) = weight e)

/-- 44_decoder R257 outcome (a), 42_parity_check_builder R185: the syndrome of a codeword with bit i flipped is row i of H,
and where the table holds the unit vector e_i for it, DEC gives the codeword back and takes no draw. -/
def Obligations.SingleFlipIsUndoneWhereRecorded : Prop :=
  ∀ (len : BitVec 8) (s : State) (m c : Bits) (i : Nat) (row : Bits), s.Inv → s.phase = .loading ∨ s.phase = .ready →
    len.toNat = s.nVal → m.length = s.kVal → c = vecmat m s.g → i < s.nVal → s.h.rows[i]? = some row →
    unpack s.nVal s.din.toNat = vadd c (unitVec s.nVal i) →
    vecmat (unpack s.nVal s.din.toNat) s.h = row ∧
    (s.st.read (pack row) = some (unitVec s.nVal i) →
      ∃ t, exec (.dec len) s = .next t ∧ t.resp = some { dout := onPort c, val := 1 } ∧ t.draws = s.draws ∧
        t.drawCount = s.drawCount)

/-- 44_decoder R246: on the syndrome fallback every recorded entry can be the one chosen: some value of the draw (queued here
by a test bench) chooses it, where a draw has enough bits. -/
def Obligations.EveryEntryCanBeChosen : Prop :=
  ∀ (len : BitVec 8) (s : State) (y : Bits) (j : Nat) (ds : List Nat), s.Inv → s.phase = .loading ∨ s.phase = .ready →
    len.toNat = s.nVal → y = unpack s.nVal s.din.toNat → pack (vecmat y s.h) ≠ 0 →
    s.st.read (pack (vecmat y s.h)) = none → j < s.stCount.toNat → j < 2 ^ s.caps.rndw →
    ∃ a e t, s.ord[j]? = some a ∧ s.st.read a = some e ∧ exec (.dec len) { s with draws := j :: ds } = .next t ∧
      t.draws = ds ∧
      t.resp = some { dout := onPort (vadd e y), val := BitVec.ofNat 32 (weight e), tags := 0x01 }

/-- 44_decoder R255: DEC takes at most one draw, DECL at most two, no other command takes any; draws come from one stream in
order; a decode that ends OK takes one for each fallback its tags show; a command that ends with an error takes none, but
for a DECL that ends with EmptyFallback on an empty dictionary after the draw of a syndrome fallback. -/
def Obligations.DrawsOnlyOnFallbacks : Prop :=
  ∀ (i : Instr) (s t : State) (r : Response), exec i s = .next t → t.resp = some r →
    ∃ m, t.draws = s.draws.drop m ∧ t.drawCount = s.drawCount + m ∧
      ((∃ len, i = .dec len) → m ≤ 1) ∧ ((∃ len, i = .decl len) → m ≤ 2) ∧
      ((∀ len, i ≠ .dec len) → (∀ len, i ≠ .decl len) → m = 0) ∧
      ((∃ len, i = .dec len ∨ i = .decl len) → r.status = 0 →
        m = (r.tags.getLsbD 0).toNat + (r.tags.getLsbD 1).toNat) ∧
      (r.status ≠ 0 → m = 0 ∨
        (m = 1 ∧ r.status = 8 ∧ s.stCount ≠ 0 ∧ s.cdCount = 0 ∧ ∃ len, i = .decl len))

/-- 10_state R34: the counters saturate; DEC_COUNT counts the DEC and DECL that ended OK, FB1_COUNT those among them that
used the syndrome fallback, FB2_COUNT the DECL among them that used the codeword fallback; nothing but reset changes
them otherwise. -/
def Obligations.CountersCountOkDecodes : Prop :=
  ∀ (i : Instr) (s t : State) (r : Response), i ≠ .reset → exec i s = .next t → t.resp = some r →
    (r.status = 0 → (∃ len, i = .dec len ∨ i = .decl len) →
      t.decCount.toNat = min (s.decCount.toNat + 1) (2 ^ 32 - 1) ∧
      t.fb1Count.toNat = min (s.fb1Count.toNat + (r.tags.getLsbD 0).toNat) (2 ^ 32 - 1) ∧
      t.fb2Count.toNat = min (s.fb2Count.toNat + (r.tags.getLsbD 1).toNat) (2 ^ 32 - 1)) ∧
    (r.status ≠ 0 ∨ (∀ len, i ≠ .dec len ∧ i ≠ .decl len) →
      t.decCount = s.decCount ∧ t.fb1Count = s.fb1Count ∧ t.fb2Count = s.fb2Count) ∧
    ((∃ len, i = .dec len) → t.fb2Count = s.fb2Count)

/-! ### Frames -/

/-- 10_state R35: "a command that ends OK does not change it"; ERRBITS stays, too; both are cleared by reset alone. -/
def Obligations.OkKeepsTheErrorRecord : Prop :=
  ∀ (i : Instr) (s t : State) (r : Response), i ≠ .reset → exec i s = .next t → t.resp = some r → r.status = 0 →
    t.errbits = s.errbits ∧ t.lastErr = s.lastErr

/-- 20_memory R68: NOP, MUL, WT, RDM, RDST, RDSTO, RDCD, RDREG: a reader that ends OK leaves all of the state as it was (only
the response is new); one that ends with an error changes the error record, and MUL also PHASE. -/
def Obligations.FrameOfReaders : Prop :=
  ∀ (i : Instr) (s t : State) (r : Response), isReader i = true → exec i s = .next t → t.resp = some r →
    (r.status = 0 → t = { s with resp := some r }) ∧
    (t = { s with resp := t.resp, errbits := t.errbits, lastErr := t.lastErr, phase := t.phase }) ∧
    ((∀ len sel, i ≠ .mul len sel) → t.phase = s.phase)

/-- 44_decoder R244, R250: the frame of DEC and DECL: the artifacts, the dictionary, the parameters, the capacities, ENUM and the
host's side are as they were; DEC leaves FB2_COUNT; a DEC or DECL that ends OK leaves PHASE and the error record. -/
def Obligations.FrameOfDecodes : Prop :=
  ∀ (i : Instr) (s t : State), (∃ len, i = .dec len ∨ i = .decl len) → exec i s = .next t →
    t = { s with
      decCount := t.decCount, fb1Count := t.fb1Count, fb2Count := t.fb2Count, draws := t.draws
      drawCount := t.drawCount, phase := t.phase, errbits := t.errbits, lastErr := t.lastErr, resp := t.resp } ∧
    ((∃ len, i = .dec len) → t.fb2Count = s.fb2Count) ∧
    (∀ r, t.resp = some r → r.status = 0 → t.phase = s.phase ∧ t.errbits = s.errbits ∧ t.lastErr = s.lastErr)

/-- 45_construct_and_access R285, R292, R296: the frames of CONSTRUCT, LDSYM, SEAL and RESET: CONSTRUCT leaves the event
counters, the draws, ENUM and the host's side; LDSYM writes CD and CD_COUNT (the entries before stay), SEAL PHASE alone,
beside the error record and PHASE where they end with an error; RESET leaves the capacities, ENUM, the host's side and the
randomness source. -/
def Obligations.FrameOfConstruction : Prop :=
  ∀ s t : State,
    (∀ k n, exec (.construct k n) s = .next t →
      t.decCount = s.decCount ∧ t.fb1Count = s.fb1Count ∧ t.fb2Count = s.fb2Count ∧ t.caps = s.caps ∧
      t.enum = s.enum ∧ t.inbox = s.inbox ∧ t.din = s.din ∧ t.draws = s.draws ∧ t.drawCount = s.drawCount ∧
      (s.phase = .empty → t.phase = .loading → t.errbits = s.errbits ∧ t.lastErr = s.lastErr) ∧
      (s.phase ≠ .empty → t = { s with resp := t.resp, errbits := t.errbits, lastErr := t.lastErr })) ∧
    (∀ len sym, exec (.ldsym len sym) s = .next t →
      t = { s with
        cd := t.cd, cdCount := t.cdCount, phase := t.phase, errbits := t.errbits, lastErr := t.lastErr
        resp := t.resp } ∧
      ((t.cd = s.cd ∧ t.cdCount = s.cdCount) ∨
        (∃ c, t.cd = s.cd ++ [⟨c, sym⟩] ∧ t.cdCount = s.cdCount + 1 ∧ t.phase = s.phase ∧
          t.errbits = s.errbits ∧ t.lastErr = s.lastErr))) ∧
    (exec .sealCode s = .next t →
      t = { s with phase := t.phase, errbits := t.errbits, lastErr := t.lastErr, resp := t.resp }) ∧
    (exec .reset s = .next t →
      t.caps = s.caps ∧ t.enum = s.enum ∧ t.inbox = s.inbox ∧ t.din = s.din ∧ t.draws = s.draws ∧
        t.drawCount = s.drawCount)

/-- 10_state R25, R26, R28, 20_memory R61, R78, 70_reset_and_hazards R392: once a code is built, no command but RESET
changes K, N, G, H, the syndrome table, its counts or ENUM, and no command but LDSYM in phase LOADING changes the dictionary. -/
def Obligations.ArtifactsAreReadOnlyOnceBuilt : Prop :=
  ∀ (i : Instr) (s t : State), s.phase ≠ .empty → i ≠ .reset → exec i s = .next t →
    t.k = s.k ∧ t.n = s.n ∧ t.g = s.g ∧ t.h = s.h ∧ t.st = s.st ∧ t.ord = s.ord ∧ t.stCount = s.stCount ∧
    t.candCount = s.candCount ∧ t.caps = s.caps ∧ t.enum = s.enum ∧ t.inbox = s.inbox ∧ t.din = s.din ∧
    (t.cd ≠ s.cd ∨ t.cdCount ≠ s.cdCount → s.phase = .loading ∧ ∃ len sym, i = .ldsym len sym)

/-- 45_construct_and_access R315: two issues of the same reader, with nothing between, give the same response and the same
state. -/
def Obligations.ReadersAreIdempotent : Prop :=
  ∀ (i : Instr) (s t : State) (r : Response), isReader i = true → exec i s = .next t → t.resp = some r →
    r.status = 0 → exec i t = .next t

/-- 70_reset_and_hazards R397, 10_state R37, R40: a response is not state: what a command does is the same whatever response
was given before it. -/
def Obligations.ResponsesAreNotRead : Prop :=
  ∀ (i : Instr) (s : State) (r : Option Response), exec i { s with resp := r } = exec i s

/-- 20_memory R62, R70: bits of din at and above the declared length are ignored, and a command that does not name din
ignores all of it: the outcome is the same for two vectors that agree below. -/
def Obligations.DinBeyondLengthIsIgnored : Prop :=
  ∀ (i : Instr) (s t : State) (d : PortVec), (∀ b, b < dinLength i → s.din.getLsbD b = d.getLsbD b) →
    exec i s = .next t → exec i { s with din := d } = .next { t with din := d }

/-- 20_memory R71, R62, R65, 10_state R39: a response keeps to its ports: dout to N_MAX bits, sym to SYMW bits, tags to its
four bits, val to a bound of its own where it is a count. -/
def Obligations.ResponsesFitTheirPorts : Prop :=
  ∀ (i : Instr) (s t : State) (r : Response), s.Inv → i.wellFormed s.caps.symw = true → exec i s = .next t →
    t.resp = some r →
    r.dout.toNat < 2 ^ s.caps.nMax ∧ r.sym.toNat < 2 ^ s.caps.symw ∧ r.tags.toNat < 16 ∧
    ((∃ len, i = .wt len ∨ i = .dec len ∨ i = .decl len) → r.val.toNat ≤ s.caps.nMax)

/-! ### The builders and the algebra -/

/-- 41_generator_builder R162, R163, R164: the closed form of G is what the document's procedure makes, step by step, and
its left block is the identity, its right block A. -/
def Obligations.GeneratorIsTheDocumentsProcedure : Prop :=
  ∀ k n : Nat, k < n →
    documentGenerator k n = buildGenerator k n ∧
    (∀ i j, i < k → j < k → entry (buildGenerator k n) i j = decide (j = i)) ∧
    (∀ i c, i < k → c < n - k → entry (buildGenerator k n) i (k + c) = decide (i ≠ c))

/-- 42_parity_check_builder R182: H has n rows and n-k columns; its top k rows are the A block of G, its bottom n-k rows the
identity; the closed form. -/
def Obligations.ParityCheckIsAOverIdentity : Prop :=
  ∀ k n : Nat, k < n → ∀ h, h = buildParityCheck (buildGenerator k n) k n →
    hasShape h n (n - k) = true ∧
    (∀ i j, i < k → j < n - k → entry h i j = entry (buildGenerator k n) i (k + j) ∧ entry h i j = decide (i ≠ j)) ∧
    (∀ i j, k ≤ i → i < n → j < n - k → entry h i j = decide (i - k = j))

/-- 42_parity_check_builder R184: G · H mod 2 is the k-by-(n-k) all-zero matrix, and the syndrome of every codeword is
all-zero. -/
def Obligations.GeneratorTimesParityCheckIsZero : Prop :=
  ∀ k n : Nat, k < n → ∀ g h, g = buildGenerator k n → h = buildParityCheck g k n →
    matMul g h = ⟨n - k, List.replicate k (List.replicate (n - k) false)⟩ ∧
    (∀ m : Bits, m.length = k → vecmat (vecmat m g) h = List.replicate (n - k) false)

/-- 42_parity_check_builder R186, R185: a vector has the all-zero syndrome exactly when it is the codeword of its first k
elements; the syndrome of the vector with element i alone set is row i of H. -/
def Obligations.ZeroSyndromeExactlyForCodewords : Prop :=
  ∀ k n : Nat, k < n → ∀ g h, g = buildGenerator k n → h = buildParityCheck g k n →
    (∀ v : Bits, v.length = n → (vecmat v h = List.replicate (n - k) false ↔ v = vecmat (v.take k) g)) ∧
    (∀ i, i < n → some (vecmat (unitVec n i) h) = h.rows[i]?)

/-- 40_gf2_algebra R135: the laws of vecmat: zero, unit vectors, linearity; for every matrix that has its shape. -/
def Obligations.VecmatIsLinear : Prop :=
  ∀ (m : Matrix) (r c : Nat), hasShape m r c = true →
    vecmat (List.replicate r false) m = List.replicate c false ∧
    (∀ i, i < r → some (vecmat (unitVec r i) m) = m.rows[i]?) ∧
    (∀ u v : Bits, u.length = r → v.length = r → vecmat (vadd u v) m = vadd (vecmat u m) (vecmat v m))

/-- 41_generator_builder R167: the codeword of a message in closed form: the message in the first k positions, then at
position k + t the parity of all message bits except bit t. -/
def Obligations.CodewordInClosedForm : Prop :=
  ∀ (k n : Nat) (m : Bits), k < n → m.length = k → ∀ cw, cw = vecmat m (buildGenerator k n) →
    cw.length = n ∧ (∀ j, j < k → cw[j]? = m[j]?) ∧
    (∀ t, t < n - k → t < k → cw[k + t]? = some (decide ((weight m - (m.getD t false).toNat) % 2 = 1))) ∧
    (∀ t, t < n - k → k ≤ t → cw[k + t]? = some (decide (weight m % 2 = 1)))

/-- 40_gf2_algebra R147: the laws of the Hamming weight. -/
def Obligations.WeightLaws : Prop :=
  (∀ v : Bits, weight v = 0 ↔ v = List.replicate v.length false) ∧
  (∀ len i, i < len → weight (unitVec len i) = 1) ∧
  (∀ u v : Bits, u.length = v.length →
    weight (vadd u v) + 2 * weight (List.zipWith (fun a b => a && b) u v) = weight u + weight v) ∧
  (∀ u v : Bits, u.length = v.length →
    weight (vadd u v) % 2 = (weight u + weight v) % 2 ∧ weight (vadd u v) ≤ weight u + weight v ∧
    weight (vadd u v) = ((u.zip v).countP fun p => p.1 != p.2) ∧ weight (vadd (vadd u v) v) = weight u)

/-- 00_scope R11: pack is the sum of v[i] * 2^(L-1-i); unpack takes element i from bit L-1-i and drops the bits at and above
L; the two are inverse on vectors of length L and integers below 2^L. -/
def Obligations.PackAndUnpackAreInverse : Prop :=
  (∀ v : Bits, pack v = ((List.range v.length).map fun i => (v.getD i false).toNat * 2 ^ (v.length - 1 - i)).sum) ∧
  (∀ len x i : Nat, i < len → (unpack len x)[i]? = some (x.testBit (len - 1 - i))) ∧
  (∀ v : Bits, unpack v.length (pack v) = v ∧ pack v < 2 ^ v.length) ∧
  (∀ len x : Nat, pack (unpack len x) = x % 2 ^ len)

/-- 40_gf2_algebra R140, R141 (a), (b): the transpose swaps the indices, row j of it is column j, and twice it is the matrix
itself. -/
def Obligations.TransposeSwapsIndices : Prop :=
  ∀ (m : Matrix) (r c : Nat), 0 < r → hasShape m r c = true →
    hasShape (transpose m) c r = true ∧
    (∀ i j, i < r → j < c → entry (transpose m) j i = entry m i j) ∧ transpose (transpose m) = m

/-- 43_syndrome_table R205, R206, R207, R208, 10_state R29, R30: for every enumeration and every H of n-k columns, the
table that the builder makes: at most one entry per syndrome, in canonical form; none for the all-zero syndrome; each entry
a candidate that has that syndrome, the first one that has it; every non-zero syndrome of a candidate has an entry; ORD lists
exactly the addresses that are valid, each once, in increasing order of the candidate that recorded them; at most T
entries. -/
def Obligations.TableHoldsTheFirstCandidates : Prop :=
  ∀ (enum : Nat → Nat → Nat → Bits) (h : Matrix) (n k : Nat), h.cols = n - k →
    ∀ table, table = buildSyndromeTable enum h n k →
    table.st.wf ∧ table.st.read 0 = none ∧
    (∀ a e, table.st.read a = some e → a < 2 ^ (n - k) ∧ vecmat e h = unpack (n - k) a ∧
      ∃ i, i < 2 ^ (n - k) - 1 ∧ e = enum k n i ∧ ∀ i', i' < i → pack (vecmat (enum k n i') h) ≠ a) ∧
    (∀ i, i < 2 ^ (n - k) - 1 → pack (vecmat (enum k n i) h) ≠ 0 →
      (table.st.read (pack (vecmat (enum k n i) h))).isSome = true) ∧
    table.ord.Nodup ∧ (∀ a, a ∈ table.ord ↔ (table.st.read a).isSome = true) ∧
    table.ord.length = table.st.length ∧ table.ord.length ≤ 2 ^ (n - k) - 1 ∧
    (∀ p q i j : Nat, p < q →
      table.ord[p]? = some (pack (vecmat (enum k n i) h)) →
      table.ord[q]? = some (pack (vecmat (enum k n j) h)) →
      (∀ i', i' < i → pack (vecmat (enum k n i') h) ≠ pack (vecmat (enum k n i) h)) →
      (∀ j', j' < j → pack (vecmat (enum k n j') h) ≠ pack (vecmat (enum k n j) h)) → i < j)

/-- 43_syndrome_table R209 (a), (d), (e), R210 (d): the first n candidates are the single-bit vectors in order; no candidate is
the all-zero vector; from weight counter n on every candidate is all ones; with n-k = 1 the table is empty. The
enumeration is the spec's reading R204 (its decision D20; assumption log 5). An instance's ENUM (00_scope R7) is the vector
its state lists, and R204's value where it lists none, as at reset (log 15). -/
def Obligations.CandidatesStartWithSingleBits : Prop :=
  (∀ k n i, i < n → enumCandidate k n i = unitVec n i) ∧
  (∀ k n i, 0 < n → (enumCandidate k n i).length = n ∧ enumCandidate k n i ≠ List.replicate n false) ∧
  (∀ k n i, 0 < n → i / n ≥ n → enumCandidate k n i = List.replicate n true) ∧
  (∀ k, 0 < k →
    buildSyndromeTable enumCandidate (buildParityCheck (buildGenerator k (k + 1)) k (k + 1)) (k + 1) k = ⟨[], []⟩) ∧
  (∀ k n i, State.reset.enumOf k n i = enumCandidate k n i) ∧
  (∀ (s : State) (k n i : Nat), (∀ c ∈ s.enum, ¬(c.k = k ∧ c.n = n ∧ c.i = i)) →
    s.enumOf k n i = enumCandidate k n i) ∧
  (∀ (s : State) (k n i : Nat) (v : Bits) (others : List Candidate), v.length = n → s.enum = ⟨k, n, i, v⟩ :: others →
    s.enumOf k n i = v)

/-! ### Invariants -/

/-- 10_state R45: the invariant holds at reset, and a run that has not begun is error-free. Two of its parts are the model's
choices at reset, not the spec's: the capacities are those of the default instance (assumption log 4), and G, H, ST, ORD and
CD, whose contents R45 leaves unspecified, are absent (log 6). -/
def Obligations.ResetHasTheInvariant : Prop :=
  State.reset.Inv ∧ State.reset.ErrorFree

/-- 10_state R22, R24, R25, R26, R30 to R35, 70_reset_and_hazards R401: from every state with the invariant a step answers a
next state (no command stops the machine) and that state has the invariant: the parameters in their bounds, G, H and the
syndrome table those of (K, N), the dictionary of distinct codewords, the counters and the error record consistent. Three
of its parts are the model's, not the spec's: in phase EMPTY the memories are absent (assumption log 6), the table is the
one under the enumeration that the state holds as data (log 15; R204's where nothing is listed, log 5), and RNDW is at most
255 (log 10). -/
def Obligations.StepKeepsTheInvariant : Prop :=
  ∀ s : State, s.Inv → ∃ t, step s = .next t ∧ t.Inv

/-- In every state whose syndrome table ROM is in canonical form, a step leaves it so. The form (a list of live addresses,
strictly rising) is the model's representation of the ROM (assumption log 9); of the spec it gives the one location per
address (10_state R28, R30 (a)), the order is the model's. -/
def Obligations.StepKeepsTheRomCanonical : Prop :=
  ∀ s t : State, s.st.wf → step s = .next t → t.st.wf
end

