-- ==== Sys2Proof/Laws/State.lean ====
section
/-! SUPPORT. What each named update of the state does to each field: one lemma per field per update. -/

namespace Sys2Proof.Machine

@[simp] theorem State.answered_phase (s : State) (r : Response) : (s.answered r).phase = s.phase := rfl
@[simp] theorem State.answered_k (s : State) (r : Response) : (s.answered r).k = s.k := rfl
@[simp] theorem State.answered_n (s : State) (r : Response) : (s.answered r).n = s.n := rfl
@[simp] theorem State.answered_g (s : State) (r : Response) : (s.answered r).g = s.g := rfl
@[simp] theorem State.answered_h (s : State) (r : Response) : (s.answered r).h = s.h := rfl
@[simp] theorem State.answered_st (s : State) (r : Response) : (s.answered r).st = s.st := rfl
@[simp] theorem State.answered_ord (s : State) (r : Response) : (s.answered r).ord = s.ord := rfl
@[simp] theorem State.answered_stCount (s : State) (r : Response) : (s.answered r).stCount = s.stCount := rfl
@[simp] theorem State.answered_candCount (s : State) (r : Response) : (s.answered r).candCount = s.candCount := rfl
@[simp] theorem State.answered_cd (s : State) (r : Response) : (s.answered r).cd = s.cd := rfl
@[simp] theorem State.answered_cdCount (s : State) (r : Response) : (s.answered r).cdCount = s.cdCount := rfl
@[simp] theorem State.answered_decCount (s : State) (r : Response) : (s.answered r).decCount = s.decCount := rfl
@[simp] theorem State.answered_fb1Count (s : State) (r : Response) : (s.answered r).fb1Count = s.fb1Count := rfl
@[simp] theorem State.answered_fb2Count (s : State) (r : Response) : (s.answered r).fb2Count = s.fb2Count := rfl
@[simp] theorem State.answered_errbits (s : State) (r : Response) : (s.answered r).errbits = s.errbits := rfl
@[simp] theorem State.answered_lastErr (s : State) (r : Response) : (s.answered r).lastErr = s.lastErr := rfl
@[simp] theorem State.answered_caps (s : State) (r : Response) : (s.answered r).caps = s.caps := rfl
@[simp] theorem State.answered_enum (s : State) (r : Response) : (s.answered r).enum = s.enum := rfl
@[simp] theorem State.answered_inbox (s : State) (r : Response) : (s.answered r).inbox = s.inbox := rfl
@[simp] theorem State.answered_din (s : State) (r : Response) : (s.answered r).din = s.din := rfl
@[simp] theorem State.answered_draws (s : State) (r : Response) : (s.answered r).draws = s.draws := rfl
@[simp] theorem State.answered_drawCount (s : State) (r : Response) : (s.answered r).drawCount = s.drawCount := rfl
@[simp] theorem State.answered_resp (s : State) (r : Response) : (s.answered r).resp = some r := rfl

@[simp] theorem State.afterError_phase (s : State) (e : ErrorCode) : (s.afterError e).phase = phaseAfter e s.phase := rfl
@[simp] theorem State.afterError_k (s : State) (e : ErrorCode) : (s.afterError e).k = s.k := rfl
@[simp] theorem State.afterError_n (s : State) (e : ErrorCode) : (s.afterError e).n = s.n := rfl
@[simp] theorem State.afterError_g (s : State) (e : ErrorCode) : (s.afterError e).g = s.g := rfl
@[simp] theorem State.afterError_h (s : State) (e : ErrorCode) : (s.afterError e).h = s.h := rfl
@[simp] theorem State.afterError_st (s : State) (e : ErrorCode) : (s.afterError e).st = s.st := rfl
@[simp] theorem State.afterError_ord (s : State) (e : ErrorCode) : (s.afterError e).ord = s.ord := rfl
@[simp] theorem State.afterError_stCount (s : State) (e : ErrorCode) : (s.afterError e).stCount = s.stCount := rfl
@[simp] theorem State.afterError_candCount (s : State) (e : ErrorCode) : (s.afterError e).candCount = s.candCount := rfl
@[simp] theorem State.afterError_cd (s : State) (e : ErrorCode) : (s.afterError e).cd = s.cd := rfl
@[simp] theorem State.afterError_cdCount (s : State) (e : ErrorCode) : (s.afterError e).cdCount = s.cdCount := rfl
@[simp] theorem State.afterError_decCount (s : State) (e : ErrorCode) : (s.afterError e).decCount = s.decCount := rfl
@[simp] theorem State.afterError_fb1Count (s : State) (e : ErrorCode) : (s.afterError e).fb1Count = s.fb1Count := rfl
@[simp] theorem State.afterError_fb2Count (s : State) (e : ErrorCode) : (s.afterError e).fb2Count = s.fb2Count := rfl
@[simp] theorem State.afterError_errbits (s : State) (e : ErrorCode) : (s.afterError e).errbits = setErrBit s.errbits e := rfl
@[simp] theorem State.afterError_lastErr (s : State) (e : ErrorCode) : (s.afterError e).lastErr = e.code := rfl
@[simp] theorem State.afterError_caps (s : State) (e : ErrorCode) : (s.afterError e).caps = s.caps := rfl
@[simp] theorem State.afterError_enum (s : State) (e : ErrorCode) : (s.afterError e).enum = s.enum := rfl
@[simp] theorem State.afterError_inbox (s : State) (e : ErrorCode) : (s.afterError e).inbox = s.inbox := rfl
@[simp] theorem State.afterError_din (s : State) (e : ErrorCode) : (s.afterError e).din = s.din := rfl
@[simp] theorem State.afterError_draws (s : State) (e : ErrorCode) : (s.afterError e).draws = s.draws := rfl
@[simp] theorem State.afterError_drawCount (s : State) (e : ErrorCode) : (s.afterError e).drawCount = s.drawCount := rfl
@[simp] theorem State.afterError_resp (s : State) (e : ErrorCode) : (s.afterError e).resp = some (errorResponse e) := rfl

@[simp] theorem State.cleared_phase (s : State) : (s.cleared).phase = State.reset.phase := rfl
@[simp] theorem State.cleared_k (s : State) : (s.cleared).k = State.reset.k := rfl
@[simp] theorem State.cleared_n (s : State) : (s.cleared).n = State.reset.n := rfl
@[simp] theorem State.cleared_g (s : State) : (s.cleared).g = State.reset.g := rfl
@[simp] theorem State.cleared_h (s : State) : (s.cleared).h = State.reset.h := rfl
@[simp] theorem State.cleared_st (s : State) : (s.cleared).st = State.reset.st := rfl
@[simp] theorem State.cleared_ord (s : State) : (s.cleared).ord = State.reset.ord := rfl
@[simp] theorem State.cleared_stCount (s : State) : (s.cleared).stCount = State.reset.stCount := rfl
@[simp] theorem State.cleared_candCount (s : State) : (s.cleared).candCount = State.reset.candCount := rfl
@[simp] theorem State.cleared_cd (s : State) : (s.cleared).cd = State.reset.cd := rfl
@[simp] theorem State.cleared_cdCount (s : State) : (s.cleared).cdCount = State.reset.cdCount := rfl
@[simp] theorem State.cleared_decCount (s : State) : (s.cleared).decCount = State.reset.decCount := rfl
@[simp] theorem State.cleared_fb1Count (s : State) : (s.cleared).fb1Count = State.reset.fb1Count := rfl
@[simp] theorem State.cleared_fb2Count (s : State) : (s.cleared).fb2Count = State.reset.fb2Count := rfl
@[simp] theorem State.cleared_errbits (s : State) : (s.cleared).errbits = State.reset.errbits := rfl
@[simp] theorem State.cleared_lastErr (s : State) : (s.cleared).lastErr = State.reset.lastErr := rfl
@[simp] theorem State.cleared_caps (s : State) : (s.cleared).caps = s.caps := rfl
@[simp] theorem State.cleared_enum (s : State) : (s.cleared).enum = s.enum := rfl
@[simp] theorem State.cleared_inbox (s : State) : (s.cleared).inbox = s.inbox := rfl
@[simp] theorem State.cleared_din (s : State) : (s.cleared).din = s.din := rfl
@[simp] theorem State.cleared_draws (s : State) : (s.cleared).draws = s.draws := rfl
@[simp] theorem State.cleared_drawCount (s : State) : (s.cleared).drawCount = s.drawCount := rfl
@[simp] theorem State.cleared_resp (s : State) : (s.cleared).resp = State.reset.resp := rfl

@[simp] theorem State.afterDraw_phase (s : State) : (s.afterDraw).phase = s.phase := rfl
@[simp] theorem State.afterDraw_k (s : State) : (s.afterDraw).k = s.k := rfl
@[simp] theorem State.afterDraw_n (s : State) : (s.afterDraw).n = s.n := rfl
@[simp] theorem State.afterDraw_g (s : State) : (s.afterDraw).g = s.g := rfl
@[simp] theorem State.afterDraw_h (s : State) : (s.afterDraw).h = s.h := rfl
@[simp] theorem State.afterDraw_st (s : State) : (s.afterDraw).st = s.st := rfl
@[simp] theorem State.afterDraw_ord (s : State) : (s.afterDraw).ord = s.ord := rfl
@[simp] theorem State.afterDraw_stCount (s : State) : (s.afterDraw).stCount = s.stCount := rfl
@[simp] theorem State.afterDraw_candCount (s : State) : (s.afterDraw).candCount = s.candCount := rfl
@[simp] theorem State.afterDraw_cd (s : State) : (s.afterDraw).cd = s.cd := rfl
@[simp] theorem State.afterDraw_cdCount (s : State) : (s.afterDraw).cdCount = s.cdCount := rfl
@[simp] theorem State.afterDraw_decCount (s : State) : (s.afterDraw).decCount = s.decCount := rfl
@[simp] theorem State.afterDraw_fb1Count (s : State) : (s.afterDraw).fb1Count = s.fb1Count := rfl
@[simp] theorem State.afterDraw_fb2Count (s : State) : (s.afterDraw).fb2Count = s.fb2Count := rfl
@[simp] theorem State.afterDraw_errbits (s : State) : (s.afterDraw).errbits = s.errbits := rfl
@[simp] theorem State.afterDraw_lastErr (s : State) : (s.afterDraw).lastErr = s.lastErr := rfl
@[simp] theorem State.afterDraw_caps (s : State) : (s.afterDraw).caps = s.caps := rfl
@[simp] theorem State.afterDraw_enum (s : State) : (s.afterDraw).enum = s.enum := rfl
@[simp] theorem State.afterDraw_inbox (s : State) : (s.afterDraw).inbox = s.inbox := rfl
@[simp] theorem State.afterDraw_din (s : State) : (s.afterDraw).din = s.din := rfl
@[simp] theorem State.afterDraw_draws (s : State) : (s.afterDraw).draws = s.draws.tail := rfl
@[simp] theorem State.afterDraw_drawCount (s : State) : (s.afterDraw).drawCount = s.drawCount + 1 := rfl
@[simp] theorem State.afterDraw_resp (s : State) : (s.afterDraw).resp = s.resp := rfl

@[simp] theorem State.counted_phase (s : State) (a b : Bool) : (s.counted a b).phase = s.phase := rfl
@[simp] theorem State.counted_k (s : State) (a b : Bool) : (s.counted a b).k = s.k := rfl
@[simp] theorem State.counted_n (s : State) (a b : Bool) : (s.counted a b).n = s.n := rfl
@[simp] theorem State.counted_g (s : State) (a b : Bool) : (s.counted a b).g = s.g := rfl
@[simp] theorem State.counted_h (s : State) (a b : Bool) : (s.counted a b).h = s.h := rfl
@[simp] theorem State.counted_st (s : State) (a b : Bool) : (s.counted a b).st = s.st := rfl
@[simp] theorem State.counted_ord (s : State) (a b : Bool) : (s.counted a b).ord = s.ord := rfl
@[simp] theorem State.counted_stCount (s : State) (a b : Bool) : (s.counted a b).stCount = s.stCount := rfl
@[simp] theorem State.counted_candCount (s : State) (a b : Bool) : (s.counted a b).candCount = s.candCount := rfl
@[simp] theorem State.counted_cd (s : State) (a b : Bool) : (s.counted a b).cd = s.cd := rfl
@[simp] theorem State.counted_cdCount (s : State) (a b : Bool) : (s.counted a b).cdCount = s.cdCount := rfl
@[simp] theorem State.counted_decCount (s : State) (a b : Bool) : (s.counted a b).decCount = satIncr s.decCount := rfl
@[simp] theorem State.counted_fb1Count (s : State) (a b : Bool) : (s.counted a b).fb1Count = satIncrIf a s.fb1Count := rfl
@[simp] theorem State.counted_fb2Count (s : State) (a b : Bool) : (s.counted a b).fb2Count = satIncrIf b s.fb2Count := rfl
@[simp] theorem State.counted_errbits (s : State) (a b : Bool) : (s.counted a b).errbits = s.errbits := rfl
@[simp] theorem State.counted_lastErr (s : State) (a b : Bool) : (s.counted a b).lastErr = s.lastErr := rfl
@[simp] theorem State.counted_caps (s : State) (a b : Bool) : (s.counted a b).caps = s.caps := rfl
@[simp] theorem State.counted_enum (s : State) (a b : Bool) : (s.counted a b).enum = s.enum := rfl
@[simp] theorem State.counted_inbox (s : State) (a b : Bool) : (s.counted a b).inbox = s.inbox := rfl
@[simp] theorem State.counted_din (s : State) (a b : Bool) : (s.counted a b).din = s.din := rfl
@[simp] theorem State.counted_draws (s : State) (a b : Bool) : (s.counted a b).draws = s.draws := rfl
@[simp] theorem State.counted_drawCount (s : State) (a b : Bool) : (s.counted a b).drawCount = s.drawCount := rfl
@[simp] theorem State.counted_resp (s : State) (a b : Bool) : (s.counted a b).resp = s.resp := rfl

@[simp] theorem State.withEntry_phase (s : State) (cd : List Entry) (c : Bits) (sym : Symbol) : (s.withEntry cd c sym).phase = s.phase := rfl
@[simp] theorem State.withEntry_k (s : State) (cd : List Entry) (c : Bits) (sym : Symbol) : (s.withEntry cd c sym).k = s.k := rfl
@[simp] theorem State.withEntry_n (s : State) (cd : List Entry) (c : Bits) (sym : Symbol) : (s.withEntry cd c sym).n = s.n := rfl
@[simp] theorem State.withEntry_g (s : State) (cd : List Entry) (c : Bits) (sym : Symbol) : (s.withEntry cd c sym).g = s.g := rfl
@[simp] theorem State.withEntry_h (s : State) (cd : List Entry) (c : Bits) (sym : Symbol) : (s.withEntry cd c sym).h = s.h := rfl
@[simp] theorem State.withEntry_st (s : State) (cd : List Entry) (c : Bits) (sym : Symbol) : (s.withEntry cd c sym).st = s.st := rfl
@[simp] theorem State.withEntry_ord (s : State) (cd : List Entry) (c : Bits) (sym : Symbol) : (s.withEntry cd c sym).ord = s.ord := rfl
@[simp] theorem State.withEntry_stCount (s : State) (cd : List Entry) (c : Bits) (sym : Symbol) : (s.withEntry cd c sym).stCount = s.stCount := rfl
@[simp] theorem State.withEntry_candCount (s : State) (cd : List Entry) (c : Bits) (sym : Symbol) : (s.withEntry cd c sym).candCount = s.candCount := rfl
@[simp] theorem State.withEntry_cd (s : State) (cd : List Entry) (c : Bits) (sym : Symbol) : (s.withEntry cd c sym).cd = cd ++ [⟨c, sym⟩] := rfl
@[simp] theorem State.withEntry_cdCount (s : State) (cd : List Entry) (c : Bits) (sym : Symbol) : (s.withEntry cd c sym).cdCount = s.cdCount + 1 := rfl
@[simp] theorem State.withEntry_decCount (s : State) (cd : List Entry) (c : Bits) (sym : Symbol) : (s.withEntry cd c sym).decCount = s.decCount := rfl
@[simp] theorem State.withEntry_fb1Count (s : State) (cd : List Entry) (c : Bits) (sym : Symbol) : (s.withEntry cd c sym).fb1Count = s.fb1Count := rfl
@[simp] theorem State.withEntry_fb2Count (s : State) (cd : List Entry) (c : Bits) (sym : Symbol) : (s.withEntry cd c sym).fb2Count = s.fb2Count := rfl
@[simp] theorem State.withEntry_errbits (s : State) (cd : List Entry) (c : Bits) (sym : Symbol) : (s.withEntry cd c sym).errbits = s.errbits := rfl
@[simp] theorem State.withEntry_lastErr (s : State) (cd : List Entry) (c : Bits) (sym : Symbol) : (s.withEntry cd c sym).lastErr = s.lastErr := rfl
@[simp] theorem State.withEntry_caps (s : State) (cd : List Entry) (c : Bits) (sym : Symbol) : (s.withEntry cd c sym).caps = s.caps := rfl
@[simp] theorem State.withEntry_enum (s : State) (cd : List Entry) (c : Bits) (sym : Symbol) : (s.withEntry cd c sym).enum = s.enum := rfl
@[simp] theorem State.withEntry_inbox (s : State) (cd : List Entry) (c : Bits) (sym : Symbol) : (s.withEntry cd c sym).inbox = s.inbox := rfl
@[simp] theorem State.withEntry_din (s : State) (cd : List Entry) (c : Bits) (sym : Symbol) : (s.withEntry cd c sym).din = s.din := rfl
@[simp] theorem State.withEntry_draws (s : State) (cd : List Entry) (c : Bits) (sym : Symbol) : (s.withEntry cd c sym).draws = s.draws := rfl
@[simp] theorem State.withEntry_drawCount (s : State) (cd : List Entry) (c : Bits) (sym : Symbol) : (s.withEntry cd c sym).drawCount = s.drawCount := rfl
@[simp] theorem State.withEntry_resp (s : State) (cd : List Entry) (c : Bits) (sym : Symbol) : (s.withEntry cd c sym).resp = s.resp := rfl

@[simp] theorem State.sealedOff_phase (s : State) : (s.sealedOff).phase = .ready := rfl
@[simp] theorem State.sealedOff_k (s : State) : (s.sealedOff).k = s.k := rfl
@[simp] theorem State.sealedOff_n (s : State) : (s.sealedOff).n = s.n := rfl
@[simp] theorem State.sealedOff_g (s : State) : (s.sealedOff).g = s.g := rfl
@[simp] theorem State.sealedOff_h (s : State) : (s.sealedOff).h = s.h := rfl
@[simp] theorem State.sealedOff_st (s : State) : (s.sealedOff).st = s.st := rfl
@[simp] theorem State.sealedOff_ord (s : State) : (s.sealedOff).ord = s.ord := rfl
@[simp] theorem State.sealedOff_stCount (s : State) : (s.sealedOff).stCount = s.stCount := rfl
@[simp] theorem State.sealedOff_candCount (s : State) : (s.sealedOff).candCount = s.candCount := rfl
@[simp] theorem State.sealedOff_cd (s : State) : (s.sealedOff).cd = s.cd := rfl
@[simp] theorem State.sealedOff_cdCount (s : State) : (s.sealedOff).cdCount = s.cdCount := rfl
@[simp] theorem State.sealedOff_decCount (s : State) : (s.sealedOff).decCount = s.decCount := rfl
@[simp] theorem State.sealedOff_fb1Count (s : State) : (s.sealedOff).fb1Count = s.fb1Count := rfl
@[simp] theorem State.sealedOff_fb2Count (s : State) : (s.sealedOff).fb2Count = s.fb2Count := rfl
@[simp] theorem State.sealedOff_errbits (s : State) : (s.sealedOff).errbits = s.errbits := rfl
@[simp] theorem State.sealedOff_lastErr (s : State) : (s.sealedOff).lastErr = s.lastErr := rfl
@[simp] theorem State.sealedOff_caps (s : State) : (s.sealedOff).caps = s.caps := rfl
@[simp] theorem State.sealedOff_enum (s : State) : (s.sealedOff).enum = s.enum := rfl
@[simp] theorem State.sealedOff_inbox (s : State) : (s.sealedOff).inbox = s.inbox := rfl
@[simp] theorem State.sealedOff_din (s : State) : (s.sealedOff).din = s.din := rfl
@[simp] theorem State.sealedOff_draws (s : State) : (s.sealedOff).draws = s.draws := rfl
@[simp] theorem State.sealedOff_drawCount (s : State) : (s.sealedOff).drawCount = s.drawCount := rfl
@[simp] theorem State.sealedOff_resp (s : State) : (s.sealedOff).resp = s.resp := rfl

@[simp] theorem State.sampled_phase (s : State) (d : PortVec) : (s.sampled d).phase = s.phase := rfl
@[simp] theorem State.sampled_k (s : State) (d : PortVec) : (s.sampled d).k = s.k := rfl
@[simp] theorem State.sampled_n (s : State) (d : PortVec) : (s.sampled d).n = s.n := rfl
@[simp] theorem State.sampled_g (s : State) (d : PortVec) : (s.sampled d).g = s.g := rfl
@[simp] theorem State.sampled_h (s : State) (d : PortVec) : (s.sampled d).h = s.h := rfl
@[simp] theorem State.sampled_st (s : State) (d : PortVec) : (s.sampled d).st = s.st := rfl
@[simp] theorem State.sampled_ord (s : State) (d : PortVec) : (s.sampled d).ord = s.ord := rfl
@[simp] theorem State.sampled_stCount (s : State) (d : PortVec) : (s.sampled d).stCount = s.stCount := rfl
@[simp] theorem State.sampled_candCount (s : State) (d : PortVec) : (s.sampled d).candCount = s.candCount := rfl
@[simp] theorem State.sampled_cd (s : State) (d : PortVec) : (s.sampled d).cd = s.cd := rfl
@[simp] theorem State.sampled_cdCount (s : State) (d : PortVec) : (s.sampled d).cdCount = s.cdCount := rfl
@[simp] theorem State.sampled_decCount (s : State) (d : PortVec) : (s.sampled d).decCount = s.decCount := rfl
@[simp] theorem State.sampled_fb1Count (s : State) (d : PortVec) : (s.sampled d).fb1Count = s.fb1Count := rfl
@[simp] theorem State.sampled_fb2Count (s : State) (d : PortVec) : (s.sampled d).fb2Count = s.fb2Count := rfl
@[simp] theorem State.sampled_errbits (s : State) (d : PortVec) : (s.sampled d).errbits = s.errbits := rfl
@[simp] theorem State.sampled_lastErr (s : State) (d : PortVec) : (s.sampled d).lastErr = s.lastErr := rfl
@[simp] theorem State.sampled_caps (s : State) (d : PortVec) : (s.sampled d).caps = s.caps := rfl
@[simp] theorem State.sampled_enum (s : State) (d : PortVec) : (s.sampled d).enum = s.enum := rfl
@[simp] theorem State.sampled_inbox (s : State) (d : PortVec) : (s.sampled d).inbox = s.inbox := rfl
@[simp] theorem State.sampled_din (s : State) (d : PortVec) : (s.sampled d).din = d := rfl
@[simp] theorem State.sampled_draws (s : State) (d : PortVec) : (s.sampled d).draws = s.draws := rfl
@[simp] theorem State.sampled_drawCount (s : State) (d : PortVec) : (s.sampled d).drawCount = s.drawCount := rfl
@[simp] theorem State.sampled_resp (s : State) (d : PortVec) : (s.sampled d).resp = s.resp := rfl

@[simp] theorem State.withInbox_phase (s : State) (rest : List HostEvent) : (s.withInbox rest).phase = s.phase := rfl
@[simp] theorem State.withInbox_k (s : State) (rest : List HostEvent) : (s.withInbox rest).k = s.k := rfl
@[simp] theorem State.withInbox_n (s : State) (rest : List HostEvent) : (s.withInbox rest).n = s.n := rfl
@[simp] theorem State.withInbox_g (s : State) (rest : List HostEvent) : (s.withInbox rest).g = s.g := rfl
@[simp] theorem State.withInbox_h (s : State) (rest : List HostEvent) : (s.withInbox rest).h = s.h := rfl
@[simp] theorem State.withInbox_st (s : State) (rest : List HostEvent) : (s.withInbox rest).st = s.st := rfl
@[simp] theorem State.withInbox_ord (s : State) (rest : List HostEvent) : (s.withInbox rest).ord = s.ord := rfl
@[simp] theorem State.withInbox_stCount (s : State) (rest : List HostEvent) : (s.withInbox rest).stCount = s.stCount := rfl
@[simp] theorem State.withInbox_candCount (s : State) (rest : List HostEvent) : (s.withInbox rest).candCount = s.candCount := rfl
@[simp] theorem State.withInbox_cd (s : State) (rest : List HostEvent) : (s.withInbox rest).cd = s.cd := rfl
@[simp] theorem State.withInbox_cdCount (s : State) (rest : List HostEvent) : (s.withInbox rest).cdCount = s.cdCount := rfl
@[simp] theorem State.withInbox_decCount (s : State) (rest : List HostEvent) : (s.withInbox rest).decCount = s.decCount := rfl
@[simp] theorem State.withInbox_fb1Count (s : State) (rest : List HostEvent) : (s.withInbox rest).fb1Count = s.fb1Count := rfl
@[simp] theorem State.withInbox_fb2Count (s : State) (rest : List HostEvent) : (s.withInbox rest).fb2Count = s.fb2Count := rfl
@[simp] theorem State.withInbox_errbits (s : State) (rest : List HostEvent) : (s.withInbox rest).errbits = s.errbits := rfl
@[simp] theorem State.withInbox_lastErr (s : State) (rest : List HostEvent) : (s.withInbox rest).lastErr = s.lastErr := rfl
@[simp] theorem State.withInbox_caps (s : State) (rest : List HostEvent) : (s.withInbox rest).caps = s.caps := rfl
@[simp] theorem State.withInbox_enum (s : State) (rest : List HostEvent) : (s.withInbox rest).enum = s.enum := rfl
@[simp] theorem State.withInbox_inbox (s : State) (rest : List HostEvent) : (s.withInbox rest).inbox = rest := rfl
@[simp] theorem State.withInbox_din (s : State) (rest : List HostEvent) : (s.withInbox rest).din = s.din := rfl
@[simp] theorem State.withInbox_draws (s : State) (rest : List HostEvent) : (s.withInbox rest).draws = s.draws := rfl
@[simp] theorem State.withInbox_drawCount (s : State) (rest : List HostEvent) : (s.withInbox rest).drawCount = s.drawCount := rfl
@[simp] theorem State.withInbox_resp (s : State) (rest : List HostEvent) : (s.withInbox rest).resp = s.resp := rfl

@[simp] theorem State.idle_phase (s : State) : (s.idle).phase = s.phase := rfl
@[simp] theorem State.idle_k (s : State) : (s.idle).k = s.k := rfl
@[simp] theorem State.idle_n (s : State) : (s.idle).n = s.n := rfl
@[simp] theorem State.idle_g (s : State) : (s.idle).g = s.g := rfl
@[simp] theorem State.idle_h (s : State) : (s.idle).h = s.h := rfl
@[simp] theorem State.idle_st (s : State) : (s.idle).st = s.st := rfl
@[simp] theorem State.idle_ord (s : State) : (s.idle).ord = s.ord := rfl
@[simp] theorem State.idle_stCount (s : State) : (s.idle).stCount = s.stCount := rfl
@[simp] theorem State.idle_candCount (s : State) : (s.idle).candCount = s.candCount := rfl
@[simp] theorem State.idle_cd (s : State) : (s.idle).cd = s.cd := rfl
@[simp] theorem State.idle_cdCount (s : State) : (s.idle).cdCount = s.cdCount := rfl
@[simp] theorem State.idle_decCount (s : State) : (s.idle).decCount = s.decCount := rfl
@[simp] theorem State.idle_fb1Count (s : State) : (s.idle).fb1Count = s.fb1Count := rfl
@[simp] theorem State.idle_fb2Count (s : State) : (s.idle).fb2Count = s.fb2Count := rfl
@[simp] theorem State.idle_errbits (s : State) : (s.idle).errbits = s.errbits := rfl
@[simp] theorem State.idle_lastErr (s : State) : (s.idle).lastErr = s.lastErr := rfl
@[simp] theorem State.idle_caps (s : State) : (s.idle).caps = s.caps := rfl
@[simp] theorem State.idle_enum (s : State) : (s.idle).enum = s.enum := rfl
@[simp] theorem State.idle_inbox (s : State) : (s.idle).inbox = s.inbox := rfl
@[simp] theorem State.idle_din (s : State) : (s.idle).din = s.din := rfl
@[simp] theorem State.idle_draws (s : State) : (s.idle).draws = s.draws := rfl
@[simp] theorem State.idle_drawCount (s : State) : (s.idle).drawCount = s.drawCount := rfl
@[simp] theorem State.idle_resp (s : State) : (s.idle).resp = none := rfl

@[simp] theorem State.presenting_phase (s : State) (w : Word) : (s.presenting w).phase = s.phase := rfl
@[simp] theorem State.presenting_k (s : State) (w : Word) : (s.presenting w).k = s.k := rfl
@[simp] theorem State.presenting_n (s : State) (w : Word) : (s.presenting w).n = s.n := rfl
@[simp] theorem State.presenting_g (s : State) (w : Word) : (s.presenting w).g = s.g := rfl
@[simp] theorem State.presenting_h (s : State) (w : Word) : (s.presenting w).h = s.h := rfl
@[simp] theorem State.presenting_st (s : State) (w : Word) : (s.presenting w).st = s.st := rfl
@[simp] theorem State.presenting_ord (s : State) (w : Word) : (s.presenting w).ord = s.ord := rfl
@[simp] theorem State.presenting_stCount (s : State) (w : Word) : (s.presenting w).stCount = s.stCount := rfl
@[simp] theorem State.presenting_candCount (s : State) (w : Word) : (s.presenting w).candCount = s.candCount := rfl
@[simp] theorem State.presenting_cd (s : State) (w : Word) : (s.presenting w).cd = s.cd := rfl
@[simp] theorem State.presenting_cdCount (s : State) (w : Word) : (s.presenting w).cdCount = s.cdCount := rfl
@[simp] theorem State.presenting_decCount (s : State) (w : Word) : (s.presenting w).decCount = s.decCount := rfl
@[simp] theorem State.presenting_fb1Count (s : State) (w : Word) : (s.presenting w).fb1Count = s.fb1Count := rfl
@[simp] theorem State.presenting_fb2Count (s : State) (w : Word) : (s.presenting w).fb2Count = s.fb2Count := rfl
@[simp] theorem State.presenting_errbits (s : State) (w : Word) : (s.presenting w).errbits = s.errbits := rfl
@[simp] theorem State.presenting_lastErr (s : State) (w : Word) : (s.presenting w).lastErr = s.lastErr := rfl
@[simp] theorem State.presenting_caps (s : State) (w : Word) : (s.presenting w).caps = s.caps := rfl
@[simp] theorem State.presenting_enum (s : State) (w : Word) : (s.presenting w).enum = s.enum := rfl
@[simp] theorem State.presenting_inbox (s : State) (w : Word) : (s.presenting w).inbox = .command w s.din :: s.inbox := rfl
@[simp] theorem State.presenting_din (s : State) (w : Word) : (s.presenting w).din = s.din := rfl
@[simp] theorem State.presenting_draws (s : State) (w : Word) : (s.presenting w).draws = s.draws := rfl
@[simp] theorem State.presenting_drawCount (s : State) (w : Word) : (s.presenting w).drawCount = s.drawCount := rfl
@[simp] theorem State.presenting_resp (s : State) (w : Word) : (s.presenting w).resp = s.resp := rfl

@[simp] theorem State.constructed_phase (s : State) (k n : BitVec 8) : (s.constructed k n).phase = .loading := rfl
@[simp] theorem State.constructed_k (s : State) (k n : BitVec 8) : (s.constructed k n).k = k := rfl
@[simp] theorem State.constructed_n (s : State) (k n : BitVec 8) : (s.constructed k n).n = n := rfl
@[simp] theorem State.constructed_g (s : State) (k n : BitVec 8) : (s.constructed k n).g = buildGenerator k.toNat n.toNat := rfl
@[simp] theorem State.constructed_h (s : State) (k n : BitVec 8) : (s.constructed k n).h = buildParityCheck (buildGenerator k.toNat n.toNat) k.toNat n.toNat := rfl
@[simp] theorem State.constructed_candCount (s : State) (k n : BitVec 8) : (s.constructed k n).candCount = BitVec.ofNat 16 (candidateTotal k.toNat n.toNat) := rfl
@[simp] theorem State.constructed_cd (s : State) (k n : BitVec 8) : (s.constructed k n).cd = [] := rfl
@[simp] theorem State.constructed_cdCount (s : State) (k n : BitVec 8) : (s.constructed k n).cdCount = 0 := rfl
@[simp] theorem State.constructed_decCount (s : State) (k n : BitVec 8) : (s.constructed k n).decCount = s.decCount := rfl
@[simp] theorem State.constructed_fb1Count (s : State) (k n : BitVec 8) : (s.constructed k n).fb1Count = s.fb1Count := rfl
@[simp] theorem State.constructed_fb2Count (s : State) (k n : BitVec 8) : (s.constructed k n).fb2Count = s.fb2Count := rfl
@[simp] theorem State.constructed_errbits (s : State) (k n : BitVec 8) : (s.constructed k n).errbits = s.errbits := rfl
@[simp] theorem State.constructed_lastErr (s : State) (k n : BitVec 8) : (s.constructed k n).lastErr = s.lastErr := rfl
@[simp] theorem State.constructed_caps (s : State) (k n : BitVec 8) : (s.constructed k n).caps = s.caps := rfl
@[simp] theorem State.constructed_enum (s : State) (k n : BitVec 8) : (s.constructed k n).enum = s.enum := rfl
@[simp] theorem State.constructed_inbox (s : State) (k n : BitVec 8) : (s.constructed k n).inbox = s.inbox := rfl
@[simp] theorem State.constructed_din (s : State) (k n : BitVec 8) : (s.constructed k n).din = s.din := rfl
@[simp] theorem State.constructed_draws (s : State) (k n : BitVec 8) : (s.constructed k n).draws = s.draws := rfl
@[simp] theorem State.constructed_drawCount (s : State) (k n : BitVec 8) : (s.constructed k n).drawCount = s.drawCount := rfl
@[simp] theorem State.constructed_resp (s : State) (k n : BitVec 8) : (s.constructed k n).resp = s.resp := rfl

/-- The table that CONSTRUCT makes. -/
def State.tableOf (s : State) (k n : BitVec 8) : SynTable :=
  buildSyndromeTable s.enumOf (buildParityCheck (buildGenerator k.toNat n.toNat) k.toNat n.toNat) n.toNat k.toNat

@[simp] theorem State.constructed_st (s : State) (k n : BitVec 8) : (s.constructed k n).st = (s.tableOf k n).st := rfl
@[simp] theorem State.constructed_ord (s : State) (k n : BitVec 8) : (s.constructed k n).ord = (s.tableOf k n).ord := rfl
@[simp] theorem State.constructed_stCount (s : State) (k n : BitVec 8) :
    (s.constructed k n).stCount = BitVec.ofNat 16 (s.tableOf k n).ord.length := rfl

@[simp] theorem State.reset_phase : State.reset.phase = .empty := rfl
@[simp] theorem State.reset_k : State.reset.k = 0 := rfl
@[simp] theorem State.reset_n : State.reset.n = 0 := rfl
@[simp] theorem State.reset_g : State.reset.g = ⟨0, []⟩ := rfl
@[simp] theorem State.reset_h : State.reset.h = ⟨0, []⟩ := rfl
@[simp] theorem State.reset_st : State.reset.st = [] := rfl
@[simp] theorem State.reset_ord : State.reset.ord = [] := rfl
@[simp] theorem State.reset_stCount : State.reset.stCount = 0 := rfl
@[simp] theorem State.reset_candCount : State.reset.candCount = 0 := rfl
@[simp] theorem State.reset_cd : State.reset.cd = [] := rfl
@[simp] theorem State.reset_cdCount : State.reset.cdCount = 0 := rfl
@[simp] theorem State.reset_decCount : State.reset.decCount = 0 := rfl
@[simp] theorem State.reset_fb1Count : State.reset.fb1Count = 0 := rfl
@[simp] theorem State.reset_fb2Count : State.reset.fb2Count = 0 := rfl
@[simp] theorem State.reset_errbits : State.reset.errbits = 0 := rfl
@[simp] theorem State.reset_lastErr : State.reset.lastErr = 0 := rfl
@[simp] theorem State.reset_caps : State.reset.caps = Config.defaultCaps := rfl
@[simp] theorem State.reset_enum : State.reset.enum = [] := rfl
@[simp] theorem State.reset_inbox : State.reset.inbox = [] := rfl
@[simp] theorem State.reset_din : State.reset.din = 0 := rfl
@[simp] theorem State.reset_draws : State.reset.draws = [] := rfl
@[simp] theorem State.reset_drawCount : State.reset.drawCount = 0 := rfl
@[simp] theorem State.reset_resp : State.reset.resp = none := rfl

@[simp] theorem State.answered_answered (s : State) (r r' : Response) : (s.answered r).answered r' = s.answered r' := rfl

@[simp] theorem State.kVal_eq (s : State) : s.kVal = s.k.toNat := rfl
@[simp] theorem State.nVal_eq (s : State) : s.nVal = s.n.toNat := rfl
@[simp] theorem State.rVal_eq (s : State) : s.rVal = s.n.toNat - s.k.toNat := rfl

end Sys2Proof.Machine
end

