-- ==== Sys2Proof/Laws/Ops.lean ====
section
/-! SUPPORT. One lemma for each shared operation that says all it can do, to be cited instead of unfolding it. -/

namespace Sys2Proof.Machine

@[simp] theorem respond_eq (r : Response) (s : State) : respond r s = .next (s.answered r) := rfl
@[simp] theorem raise_eq (e : ErrorCode) (s : State) : raise e s = .next (s.afterError e) := rfl

theorem respond_next_iff {r : Response} {s t : State} : respond r s = .next t ↔ t = s.answered r := by
  constructor
  · intro h; injection h with h; exact h.symm
  · rintro rfl; rfl

theorem raise_next_iff {e : ErrorCode} {s t : State} : raise e s = .next t ↔ t = s.afterError e := by
  constructor
  · intro h; injection h with h; exact h.symm
  · rintro rfl; rfl

/-! The fault lock and the phase check. -/

@[simp] theorem gate_faulted {allowed : Phase → Bool} {s : State} {run : Result} (h : s.phase = .faulted) :
    gate allowed s run = raise .faulted s := by
  simp only [gate, h, if_true]

@[simp] theorem gate_wrongPhase {allowed : Phase → Bool} {s : State} {run : Result} (h : s.phase ≠ .faulted)
    (ha : allowed s.phase = false) : gate allowed s run = raise .wrongPhase s := by
  simp [gate, h, ha]

@[simp] theorem gate_pass {allowed : Phase → Bool} {s : State} {run : Result} (h : s.phase ≠ .faulted)
    (ha : allowed s.phase = true) : gate allowed s run = run := by
  simp [gate, h, ha]

/-- All that the two checks can do. -/
theorem gate_cases (allowed : Phase → Bool) (s : State) (run : Result) :
    (s.phase = .faulted ∧ gate allowed s run = raise .faulted s) ∨
    (s.phase ≠ .faulted ∧ allowed s.phase = false ∧ gate allowed s run = raise .wrongPhase s) ∨
    (s.phase ≠ .faulted ∧ allowed s.phase = true ∧ gate allowed s run = run) := by
  by_cases h : s.phase = .faulted
  · exact .inl ⟨h, gate_faulted h⟩
  · cases ha : allowed s.phase with
    | false => exact .inr (.inl ⟨h, rfl, gate_wrongPhase h ha⟩)
    | true => exact .inr (.inr ⟨h, rfl, gate_pass h ha⟩)

@[simp] theorem withStored_some {α : Type} (m : Storage) (a : α) (run : α → Result) :
    withStored m (some a) run = run a := rfl

@[simp] theorem withStored_none {α : Type} (m : Storage) (run : α → Result) :
    withStored m none run = .fault (.absent m) := rfl

/-- A read of a memory goes on only with what the memory holds. -/
theorem withStored_next {α : Type} {m : Storage} {o : Option α} {run : α → Result} {t : State}
    (h : withStored m o run = .next t) : ∃ a, o = some a ∧ run a = .next t := by
  cases o with
  | none => cases h
  | some a => exact ⟨a, rfl, h⟩

/-! Error codes. -/

theorem ErrorCode.code_ne_zero (e : ErrorCode) : e.code ≠ 0 := by cases e <;> decide
theorem ErrorCode.code_le_nine (e : ErrorCode) : e.code.toNat ≤ 9 := by cases e <;> decide

@[simp] theorem errorResponse_status (e : ErrorCode) : (errorResponse e).status = e.code := rfl

@[simp] theorem phaseAfter_eq (e : ErrorCode) (p : Phase) :
    phaseAfter e p = if e = .dimensionMismatch then .faulted else p := by
  cases e <;> rfl

/-! Saturating counts (10_state R34). -/

theorem satIncr_toNat (c : BitVec 32) : (satIncr c).toNat = min (c.toNat + 1) (2 ^ 32 - 1) := by
  rw [satIncr, BitVec.toNat_ofNat]; omega

@[simp] theorem satIncrIf_true (c : BitVec 32) : satIncrIf true c = satIncr c := rfl
@[simp] theorem satIncrIf_false (c : BitVec 32) : satIncrIf false c = c := rfl

/-! Draws and their number. -/

theorem takeDraws_draws (count : Nat) (s : State) : (takeDraws count s).draws = s.draws.drop count := by
  induction count generalizing s with
  | zero => rfl
  | succ count ih => rw [takeDraws, ih]; cases h : s.draws <;> simp [h]

theorem takeDraws_drawCount (count : Nat) (s : State) : (takeDraws count s).drawCount = s.drawCount + count := by
  induction count generalizing s with
  | zero => rfl
  | succ count ih => rw [takeDraws, ih]; simp; omega

/-- Drawing touches nothing else. -/
theorem takeDraws_eq (count : Nat) (s : State) :
    takeDraws count s = { s with draws := s.draws.drop count, drawCount := s.drawCount + count } := by
  induction count generalizing s with
  | zero => rfl
  | succ count ih =>
    rw [takeDraws, ih]
    cases h : s.draws <;> simp [State.afterDraw, h, Nat.add_assoc, Nat.add_comm 1]

end Sys2Proof.Machine
end

