-- ==== Sys2Proof/Laws/Decoder.lean ====
section
/-! SUPPORT. All that the steps of the decoder can do (spec/44_decoder.md R242 to R254). -/

namespace Sys2Proof.Machine

/-- Step 2 that chose an error vector: zero syndrome, entry, or fallback. -/
theorem chooseError_ok {a : Nat} {s t : State} {c : Choice} (h : chooseError a s = .ok (c, t)) :
    (a = 0 ∧ c = ⟨zeros s.nVal, false, true⟩ ∧ t = s) ∨
    (a ≠ 0 ∧ ∃ e, s.st.read a = some e ∧ c = ⟨e, false, false⟩ ∧ t = s) ∨
    (a ≠ 0 ∧ s.st.read a = none ∧ s.stCount ≠ 0 ∧
      ∃ e, s.errAt (s.drawValue % s.stCount.toNat) = .ok e ∧ c = ⟨e, true, false⟩ ∧ t = s.afterDraw) := by
  unfold chooseError at h
  split at h
  · next ha => cases h; exact .inl ⟨ha, rfl, rfl⟩
  · next ha =>
    split at h
    · next e he => cases h; exact .inr (.inl ⟨ha, e, he, rfl, rfl⟩)
    · next hn =>
      unfold syndromeFallback at h
      split at h
      · cases h
      · next hc =>
        split at h
        · next e he => cases h; exact .inr (.inr ⟨ha, hn, hc, e, he, rfl, rfl⟩)
        · cases h

/-- Step 2 that chose none. -/
theorem chooseError_error {a : Nat} {s : State} {stop : Stop} (h : chooseError a s = .error stop) :
    (a ≠ 0 ∧ s.st.read a = none ∧ s.stCount = 0 ∧ stop = .error .emptyFallback s) ∨ ∃ m, stop = .absent m := by
  unfold chooseError at h
  split at h
  · cases h
  · next ha =>
    split at h
    · cases h
    · next hn =>
      unfold syndromeFallback at h
      split at h
      · next hc => cases h; exact .inl ⟨ha, hn, hc, rfl⟩
      · split at h
        · cases h
        · next m _ => cases h; exact .inr ⟨m, rfl⟩

/-- Steps 1 and 2. -/
theorem locateError_ok {y : Bits} {s t : State} {c : Choice} (h : locateError y s = .ok (c, t)) :
    ∃ m, s.parityMatrix = some m ∧ chooseError (pack (vecmat y m)) s = .ok (c, t) := by
  unfold locateError at h
  split at h
  · cases h
  · next m hm => exact ⟨m, hm, h⟩

theorem locateError_error {y : Bits} {s : State} {stop : Stop} (h : locateError y s = .error stop) :
    stop = .error .emptyFallback s ∨ ∃ m, stop = .absent m := by
  unfold locateError at h
  split at h
  · cases h; exact .inr ⟨_, rfl⟩
  · rcases chooseError_error h with ⟨_, _, _, h⟩ | h
    · exact .inl h
    · exact .inr h

/-- The state after steps 1 and 2: a draw is taken exactly on the fallback. -/
theorem locateError_state {y : Bits} {s t : State} {c : Choice} (h : locateError y s = .ok (c, t)) :
    (c.fb1 = false ∧ t = s) ∨ (c.fb1 = true ∧ s.stCount ≠ 0 ∧ t = s.afterDraw) := by
  obtain ⟨m, -, hm⟩ := locateError_ok h
  rcases chooseError_ok hm with ⟨-, rfl, rfl⟩ | ⟨-, e, -, rfl, rfl⟩ | ⟨-, -, hc, e, -, rfl, rfl⟩
  · exact .inl ⟨rfl, rfl⟩
  · exact .inl ⟨rfl, rfl⟩
  · exact .inr ⟨rfl, hc, rfl⟩

/-- Step 4 that found a symbol: an entry that matches, or a draw among the entries. -/
theorem resolveSymbol_ok {x : Bits} {s t : State} {q : Symbol} {fb2 : Bool}
    (h : resolveSymbol x s = .ok ((q, fb2), t)) :
    ∃ cd, s.dictionary = some cd ∧
      ((fb2 = false ∧ t = s ∧ ∃ entry ∈ cd, entry.cw = x ∧ q = entry.sym) ∨
       (fb2 = true ∧ t = s.afterDraw ∧ (∀ entry ∈ cd, entry.cw ≠ x) ∧ s.cdCount ≠ 0 ∧
         ∃ entry, cd[s.drawValue % s.cdCount.toNat]? = some entry ∧ q = entry.sym)) := by
  unfold resolveSymbol at h
  split at h
  · cases h
  · next cd hcd =>
    refine ⟨cd, hcd, ?_⟩
    split at h
    · next entry he =>
      cases h
      exact .inl ⟨rfl, rfl, entry, List.mem_of_find?_eq_some he, by simpa using List.find?_some he, rfl⟩
    · next hn =>
      split at h
      · cases h
      · next hc =>
        split at h
        · next entry he =>
          cases h
          exact .inr ⟨rfl, rfl, by simpa using hn, hc, entry, he, rfl⟩
        · cases h

/-- Step 4 that found none. -/
theorem resolveSymbol_error {x : Bits} {s : State} {stop : Stop} (h : resolveSymbol x s = .error stop) :
    (s.cdCount = 0 ∧ stop = .error .emptyFallback s) ∨ ∃ m, stop = .absent m := by
  unfold resolveSymbol at h
  split at h
  · cases h; exact .inr ⟨_, rfl⟩
  · split at h
    · cases h
    · split at h
      · next hc => cases h; exact .inl ⟨hc, rfl⟩
      · split at h
        · cases h
        · cases h; exact .inr ⟨_, rfl⟩

end Sys2Proof.Machine
end

