-- ==== Sys2Proof/Laws/Exec.lean ====
section
/-! SUPPORT. All that a command can do when it answers a next state: its own effect, or an error with its cause. One
lemma per meaning, and one for `exec`. -/

namespace Sys2Proof.Machine

/-- The effect of a command that ends OK. -/
def OkEffect (i : Instr) (s t : State) : Prop :=
  match i with
  | .nop => t = s.answered {}
  | .reset => t = s.cleared.answered {}
  | .construct k n =>
    s.phase = .empty ∧ k ≠ 0 ∧ k.toNat < n.toNat ∧ n.toNat ≤ s.caps.nMax ∧ n.toNat - k.toNat ≤ s.caps.rMax ∧
      t = (s.constructed k n).answered { val := (s.constructed k n).stCount.zeroExtend 32 }
  | .ldsym len sym =>
    s.phase = .loading ∧ len.toNat = s.kVal ∧ ∃ g cd, s.genMatrix = some g ∧ s.dictionary = some cd ∧
      (∀ e ∈ cd, e.cw ≠ vecmat (s.operand s.kVal) g) ∧ s.cdCount.toNat ≠ s.caps.aMax ∧
      t = (s.withEntry cd (vecmat (s.operand s.kVal) g) sym).answered
        { dout := onPort (vecmat (s.operand s.kVal) g), sym := sym, val := s.cdCount.zeroExtend 32 }
  | .sealCode => s.phase = .loading ∧ t = s.sealedOff.answered { val := s.cdCount.zeroExtend 32 }
  | .mul len sel =>
    inBuilt s.phase = true ∧ len.toNat = s.viewRows sel ∧ ∃ m, s.view sel = some m ∧
      t = s.answered { dout := onPort (vecmat (s.operand len.toNat) m) }
  | .wt len =>
    s.phase ≠ .faulted ∧ len.toNat ≤ s.caps.nMax ∧
      t = s.answered { val := onVal (weight (s.operand len.toNat)) }
  | .rdm sel idx =>
    inBuilt s.phase = true ∧ idx.toNat < s.viewRows sel ∧ ∃ m row, s.view sel = some m ∧
      m.rows[idx.toNat]? = some row ∧ t = s.answered { dout := onPort row }
  | .rdst idx =>
    inBuilt s.phase = true ∧ idx.toNat < 2 ^ s.rVal ∧
      ((∃ e, s.st.read idx.toNat = some e ∧ t = s.answered
          { tags := tagsByte false false false true, dout := onPort e, val := onVal (weight e) }) ∨
        (s.st.read idx.toNat = none ∧ t = s.answered {}))
  | .rdsto idx =>
    inBuilt s.phase = true ∧ idx.toNat < s.stCount.toNat ∧ ∃ a e, s.ordAt idx.toNat = some a ∧
      s.st.read a = some e ∧
      t = s.answered { tags := tagsByte false false false true, val := onVal a, dout := onPort e }
  | .rdcd idx =>
    inBuilt s.phase = true ∧ idx.toNat < s.cdCount.toNat ∧ ∃ cd e, s.dictionary = some cd ∧
      cd[idx.toNat]? = some e ∧ t = s.answered { dout := onPort e.cw, sym := e.sym }
  | .rdreg idx => ∃ v, s.register idx.toNat = some v ∧ t = s.answered { val := v }
  | .dec len =>
    inBuilt s.phase = true ∧ len.toNat = s.nVal ∧ ∃ c u, locateError (s.operand s.nVal) s = .ok (c, u) ∧
      t = (u.counted c.fb1 false).answered
        { dout := onPort (vadd c.err (s.operand s.nVal)), val := onVal (weight c.err)
          tags := tagsByte c.fb1 false c.zs false }
  | .decl len =>
    s.phase = .ready ∧ len.toNat = s.nVal ∧ ∃ c u q fb2 u', locateError (s.operand s.nVal) s = .ok (c, u) ∧
      resolveSymbol (vadd c.err (s.operand s.nVal)) u = .ok ((q, fb2), u') ∧
      t = (u'.counted c.fb1 fb2).answered
        { sym := q, dout := onPort (vadd c.err (s.operand s.nVal)), val := onVal (weight c.err)
          tags := tagsByte c.fb1 fb2 c.zs false }

/-- Why a command ends with an error (60_exceptions R331, R335). -/
def ErrorCause (i : Instr) (s : State) (e : ErrorCode) : Prop :=
  match e with
  | .faulted => admission i s.phase = .f
  | .wrongPhase => admission i s.phase = .wp
  | .dimensionMismatch => admission i s.phase = .ok ∧ dimensionFails s.kVal s.nVal i = true
  | .rangeError => admission i s.phase = .ok ∧ rangeFails s i = true
  | .invalidParameters => s.phase = .empty ∧ ∃ k n, i = .construct k n
  | .capacityExceeded =>
    (s.phase = .empty ∧ ∃ k n, i = .construct k n) ∨ (s.phase = .loading ∧ ∃ len sym, i = .ldsym len sym)
  | .duplicateCodeword => s.phase = .loading ∧ ∃ len sym, i = .ldsym len sym
  | .emptyFallback =>
    (inBuilt s.phase = true ∧ ∃ len, i = .dec len) ∨ (s.phase = .ready ∧ ∃ len, i = .decl len)
  | .illegalCommand => False

/-- The effect of a command that ends with an error: the error record, on the state as the draws have left it. -/
def ErrorEffect (i : Instr) (s t : State) : Prop :=
  ∃ e u, t = u.afterError e ∧ ErrorCause i s e ∧
    (u = s ∨ (u = s.afterDraw ∧ e = .emptyFallback ∧ s.stCount ≠ 0 ∧ s.cdCount = 0 ∧ ∃ len, i = .decl len))

theorem ErrorEffect.of_raise {i : Instr} {s t : State} {e : ErrorCode} (h : raise e s = .next t)
    (hc : ErrorCause i s e) : ErrorEffect i s t :=
  ⟨e, s, raise_next_iff.mp h, hc, .inl rfl⟩

theorem inBuilt_iff {p : Phase} : inBuilt p = true ↔ p = .loading ∨ p = .ready := by cases p <;> decide

theorem admission_built {i : Instr} {p : Phase} (hp : inBuilt p = true)
    (hi : admission i .loading = .ok ∧ admission i .ready = .ok) : admission i p = .ok := by
  rcases inBuilt_iff.mp hp with rfl | rfl
  · exact hi.1
  · exact hi.2

/-- A phase that is neither FAULTED nor among those a reader runs in is EMPTY. -/
theorem phase_empty_of {p : Phase} (hf : p ≠ .faulted) (hb : inBuilt p = false) : p = .empty := by
  cases p <;> simp_all [inBuilt]

theorem execMul_next {len : BitVec 8} {sel : Sel} {s t : State} (h : execMul len sel s = .next t) :
    OkEffect (.mul len sel) s t ∨ ErrorEffect (.mul len sel) s t := by
  unfold execMul at h
  rcases gate_cases inBuilt s _ with ⟨hp, he⟩ | ⟨hf, hp, he⟩ | ⟨hf, hp, he⟩ <;> rw [he] at h
  · exact .inr (.of_raise h (by simp [ErrorCause, hp, admission, admissionRow]))
  · have := phase_empty_of hf hp
    exact .inr (.of_raise h (by simp [ErrorCause, this, admission, admissionRow]))
  · have hok : admission (.mul len sel) s.phase = .ok := admission_built hp ⟨rfl, rfl⟩
    split at h
    · next hd =>
      refine .inr (.of_raise h ⟨hok, ?_⟩)
      cases sel <;> simpa [dimensionFails, rowsOf, State.viewRows] using hd
    · next hd =>
      obtain ⟨m, hm, h⟩ := withStored_next h
      exact .inl ⟨hp, by simpa using hd, m, hm, respond_next_iff.mp h⟩

theorem execWt_next {len : BitVec 8} {s t : State} (h : execWt len s = .next t) :
    OkEffect (.wt len) s t ∨ ErrorEffect (.wt len) s t := by
  unfold execWt at h
  rcases gate_cases inUnfaulted s _ with ⟨hp, he⟩ | ⟨hf, hp, he⟩ | ⟨hf, hp, he⟩ <;> rw [he] at h
  · exact .inr (.of_raise h (by simp [ErrorCause, hp, admission, admissionRow]))
  · simp [inUnfaulted, hf] at hp
  · have hok : admission (.wt len) s.phase = .ok := by
      cases hs : s.phase <;> simp_all [admission, admissionRow]
    split at h
    · next hd => exact .inr (.of_raise h ⟨hok, by simpa [rangeFails] using hd⟩)
    · next hd => exact .inl ⟨hf, by omega, respond_next_iff.mp h⟩

theorem execConstruct_next {k n : BitVec 8} {s t : State} (h : execConstruct k n s = .next t) :
    OkEffect (.construct k n) s t ∨ ErrorEffect (.construct k n) s t := by
  unfold execConstruct at h
  rcases gate_cases inEmpty s _ with ⟨hp, he⟩ | ⟨hf, hp, he⟩ | ⟨hf, hp, he⟩ <;> rw [he] at h
  · exact .inr (.of_raise h (by simp [ErrorCause, hp, admission, admissionRow]))
  · refine .inr (.of_raise h ?_)
    cases hs : s.phase <;> simp_all [ErrorCause, inEmpty, admission, admissionRow]
  · have hem : s.phase = .empty := by simpa [inEmpty] using hp
    split at h
    · exact .inr (.of_raise h ⟨hem, _, _, rfl⟩)
    · next hk =>
      split at h
      · exact .inr (.of_raise h (.inl ⟨hem, _, _, rfl⟩))
      · next hc =>
        simp only [not_or, not_le, not_lt] at hk hc
        exact .inl ⟨hem, hk.1, hk.2.2, hc.1, hc.2, respond_next_iff.mp h⟩

theorem execLdsym_next {len : BitVec 8} {sym : Symbol} {s t : State} (h : execLdsym len sym s = .next t) :
    OkEffect (.ldsym len sym) s t ∨ ErrorEffect (.ldsym len sym) s t := by
  unfold execLdsym at h
  rcases gate_cases inLoading s _ with ⟨hp, he⟩ | ⟨hf, hp, he⟩ | ⟨hf, hp, he⟩ <;> rw [he] at h
  · exact .inr (.of_raise h (by simp [ErrorCause, hp, admission, admissionRow]))
  · refine .inr (.of_raise h ?_)
    cases hs : s.phase <;> simp_all [ErrorCause, inLoading, admission, admissionRow]
  · have hl : s.phase = .loading := by simpa [inLoading] using hp
    have hok : admission (.ldsym len sym) s.phase = .ok := by simp [hl, admission, admissionRow]
    split at h
    · next hd => exact .inr (.of_raise h ⟨hok, by simpa [dimensionFails] using hd⟩)
    · next hd =>
      obtain ⟨g, hg, h⟩ := withStored_next h
      obtain ⟨cd, hcd, h⟩ := withStored_next h
      dsimp only at h
      split at h
      · exact .inr (.of_raise h ⟨hl, _, _, rfl⟩)
      · next hdup =>
        split at h
        · exact .inr (.of_raise h (.inr ⟨hl, _, _, rfl⟩))
        · next hcap =>
          exact .inl ⟨hl, by simpa using hd, g, cd, hg, hcd, by simpa using hdup, hcap, respond_next_iff.mp h⟩

theorem execSeal_next {s t : State} (h : execSeal s = .next t) :
    OkEffect .sealCode s t ∨ ErrorEffect .sealCode s t := by
  unfold execSeal at h
  rcases gate_cases inLoading s _ with ⟨hp, he⟩ | ⟨hf, hp, he⟩ | ⟨hf, hp, he⟩ <;> rw [he] at h
  · exact .inr (.of_raise h (by simp [ErrorCause, hp, admission, admissionRow]))
  · refine .inr (.of_raise h ?_)
    cases hs : s.phase <;> simp_all [ErrorCause, inLoading, admission, admissionRow]
  · exact .inl ⟨by simpa [inLoading] using hp, respond_next_iff.mp h⟩

theorem execRdm_next {sel : Sel} {idx : BitVec 16} {s t : State} (h : execRdm sel idx s = .next t) :
    OkEffect (.rdm sel idx) s t ∨ ErrorEffect (.rdm sel idx) s t := by
  unfold execRdm at h
  rcases gate_cases inBuilt s _ with ⟨hp, he⟩ | ⟨hf, hp, he⟩ | ⟨hf, hp, he⟩ <;> rw [he] at h
  · exact .inr (.of_raise h (by simp [ErrorCause, hp, admission, admissionRow]))
  · have := phase_empty_of hf hp
    exact .inr (.of_raise h (by simp [ErrorCause, this, admission, admissionRow]))
  · have hok : admission (.rdm sel idx) s.phase = .ok := admission_built hp ⟨rfl, rfl⟩
    split at h
    · next hd =>
      refine .inr (.of_raise h ⟨hok, ?_⟩)
      cases sel <;> simpa [rangeFails, rowsOf, State.viewRows] using hd
    · next hd =>
      obtain ⟨row, hrow, h⟩ := withStored_next h
      obtain ⟨m, hm, hrow⟩ := Option.bind_eq_some_iff.mp hrow
      exact .inl ⟨hp, by omega, m, row, hm, hrow, respond_next_iff.mp h⟩

theorem execRdst_next {idx : BitVec 16} {s t : State} (h : execRdst idx s = .next t) :
    OkEffect (.rdst idx) s t ∨ ErrorEffect (.rdst idx) s t := by
  unfold execRdst at h
  rcases gate_cases inBuilt s _ with ⟨hp, he⟩ | ⟨hf, hp, he⟩ | ⟨hf, hp, he⟩ <;> rw [he] at h
  · exact .inr (.of_raise h (by simp [ErrorCause, hp, admission, admissionRow]))
  · have := phase_empty_of hf hp
    exact .inr (.of_raise h (by simp [ErrorCause, this, admission, admissionRow]))
  · have hok : admission (.rdst idx) s.phase = .ok := admission_built hp ⟨rfl, rfl⟩
    split at h
    · next hd => exact .inr (.of_raise h ⟨hok, by simpa [rangeFails] using hd⟩)
    · next hd =>
      refine .inl ⟨hp, by omega, ?_⟩
      split at h
      · next e he => exact .inl ⟨e, he, respond_next_iff.mp h⟩
      · next hn => exact .inr ⟨hn, respond_next_iff.mp h⟩

theorem execRdsto_next {idx : BitVec 16} {s t : State} (h : execRdsto idx s = .next t) :
    OkEffect (.rdsto idx) s t ∨ ErrorEffect (.rdsto idx) s t := by
  unfold execRdsto at h
  rcases gate_cases inBuilt s _ with ⟨hp, he⟩ | ⟨hf, hp, he⟩ | ⟨hf, hp, he⟩ <;> rw [he] at h
  · exact .inr (.of_raise h (by simp [ErrorCause, hp, admission, admissionRow]))
  · have := phase_empty_of hf hp
    exact .inr (.of_raise h (by simp [ErrorCause, this, admission, admissionRow]))
  · have hok : admission (.rdsto idx) s.phase = .ok := admission_built hp ⟨rfl, rfl⟩
    split at h
    · next hd => exact .inr (.of_raise h ⟨hok, by simpa [rangeFails] using hd⟩)
    · next hd =>
      obtain ⟨a, ha, h⟩ := withStored_next h
      obtain ⟨e, he, h⟩ := withStored_next h
      exact .inl ⟨hp, by omega, a, e, ha, he, respond_next_iff.mp h⟩

theorem execRdcd_next {idx : BitVec 16} {s t : State} (h : execRdcd idx s = .next t) :
    OkEffect (.rdcd idx) s t ∨ ErrorEffect (.rdcd idx) s t := by
  unfold execRdcd at h
  rcases gate_cases inBuilt s _ with ⟨hp, he⟩ | ⟨hf, hp, he⟩ | ⟨hf, hp, he⟩ <;> rw [he] at h
  · exact .inr (.of_raise h (by simp [ErrorCause, hp, admission, admissionRow]))
  · have := phase_empty_of hf hp
    exact .inr (.of_raise h (by simp [ErrorCause, this, admission, admissionRow]))
  · have hok : admission (.rdcd idx) s.phase = .ok := admission_built hp ⟨rfl, rfl⟩
    split at h
    · next hd => exact .inr (.of_raise h ⟨hok, by simpa [rangeFails] using hd⟩)
    · next hd =>
      obtain ⟨e, he, h⟩ := withStored_next h
      obtain ⟨cd, hcd, he⟩ := Option.bind_eq_some_iff.mp he
      exact .inl ⟨hp, by omega, cd, e, hcd, he, respond_next_iff.mp h⟩

/-- The register map ends at 0xC (10_state R36). -/
theorem register_eq_none_iff (s : State) (idx : Nat) : s.register idx = none ↔ idx > 0xC := by
  constructor
  · intro h
    by_contra hle
    have : idx ≤ 12 := by omega
    interval_cases idx <;> simp [State.register] at h
  · intro h
    unfold State.register
    split <;> first | omega | rfl

theorem execRdreg_next {idx : BitVec 16} {s t : State} (h : execRdreg idx s = .next t) :
    OkEffect (.rdreg idx) s t ∨ ErrorEffect (.rdreg idx) s t := by
  unfold execRdreg at h
  split at h
  · next v hv => exact .inl ⟨v, hv, respond_next_iff.mp h⟩
  · next hn =>
    refine .inr (.of_raise h ⟨by cases hs : s.phase <;> rfl, ?_⟩)
    simpa [rangeFails] using (register_eq_none_iff s _).mp hn

theorem Stop.result_next {stop : Stop} {t : State} (h : stop.result = .next t) :
    ∃ e u, stop = .error e u ∧ t = u.afterError e := by
  cases stop with
  | error e u => exact ⟨e, u, rfl, raise_next_iff.mp h⟩
  | absent m => cases h

theorem execDec_next {len : BitVec 8} {s t : State} (h : execDec len s = .next t) :
    OkEffect (.dec len) s t ∨ ErrorEffect (.dec len) s t := by
  unfold execDec at h
  rcases gate_cases inBuilt s _ with ⟨hp, he⟩ | ⟨hf, hp, he⟩ | ⟨hf, hp, he⟩ <;> rw [he] at h
  · exact .inr (.of_raise h (by simp [ErrorCause, hp, admission, admissionRow]))
  · have := phase_empty_of hf hp
    exact .inr (.of_raise h (by simp [ErrorCause, this, admission, admissionRow]))
  · have hok : admission (.dec len) s.phase = .ok := admission_built hp ⟨rfl, rfl⟩
    split at h
    · next hd => exact .inr (.of_raise h ⟨hok, by simpa [dimensionFails] using hd⟩)
    · next hd =>
      split at h
      · next stop hstop =>
        obtain ⟨e, u, rfl, rfl⟩ := Stop.result_next h
        rcases locateError_error hstop with hs | ⟨m, hs⟩
        · cases hs
          exact .inr ⟨_, s, rfl, .inl ⟨hp, len, rfl⟩, .inl rfl⟩
        · cases hs
      · next c u hcu =>
        exact .inl ⟨hp, by simpa using hd, c, u, hcu, respond_next_iff.mp h⟩

theorem execDecl_next {len : BitVec 8} {s t : State} (h : execDecl len s = .next t) :
    OkEffect (.decl len) s t ∨ ErrorEffect (.decl len) s t := by
  unfold execDecl at h
  rcases gate_cases inReady s _ with ⟨hp, he⟩ | ⟨hf, hp, he⟩ | ⟨hf, hp, he⟩ <;> rw [he] at h
  · exact .inr (.of_raise h (by simp [ErrorCause, hp, admission, admissionRow]))
  · refine .inr (.of_raise h ?_)
    cases hs : s.phase <;> simp_all [ErrorCause, inReady, admission, admissionRow]
  · have hr : s.phase = .ready := by simpa [inReady] using hp
    have hok : admission (.decl len) s.phase = .ok := by simp [hr, admission, admissionRow]
    split at h
    · next hd => exact .inr (.of_raise h ⟨hok, by simpa [dimensionFails] using hd⟩)
    · next hd =>
      split at h
      · next stop hstop =>
        obtain ⟨e, u, rfl, rfl⟩ := Stop.result_next h
        rcases locateError_error hstop with hs | ⟨m, hs⟩
        · cases hs
          exact .inr ⟨_, s, rfl, .inr ⟨hr, len, rfl⟩, .inl rfl⟩
        · cases hs
      · next c u hcu =>
        split at h
        · next stop hstop =>
          obtain ⟨e, v, rfl, rfl⟩ := Stop.result_next h
          rcases resolveSymbol_error hstop with ⟨hcd, hs⟩ | ⟨m, hs⟩
          · cases hs
            refine .inr ⟨_, u, rfl, .inr ⟨hr, len, rfl⟩, ?_⟩
            rcases locateError_state hcu with ⟨-, rfl⟩ | ⟨-, hst, rfl⟩
            · exact .inl rfl
            · exact .inr ⟨rfl, rfl, hst, hcd, len, rfl⟩
          · cases hs
        · next q fb2 u' hq =>
          exact .inl ⟨hr, by simpa using hd, c, u, q, fb2, u', hcu, hq, respond_next_iff.mp h⟩

/-- All that a command can do when it answers a next state. -/
theorem exec_next_cases {i : Instr} {s t : State} (h : exec i s = .next t) :
    OkEffect i s t ∨ ErrorEffect i s t := by
  cases i with
  | nop => exact .inl (respond_next_iff.mp h)
  | reset => exact .inl (respond_next_iff.mp h)
  | construct k n => exact execConstruct_next h
  | ldsym len sym => exact execLdsym_next h
  | sealCode => exact execSeal_next h
  | mul len sel => exact execMul_next h
  | wt len => exact execWt_next h
  | rdm sel idx => exact execRdm_next h
  | rdst idx => exact execRdst_next h
  | rdsto idx => exact execRdsto_next h
  | rdcd idx => exact execRdcd_next h
  | rdreg idx => exact execRdreg_next h
  | dec len => exact execDec_next h
  | decl len => exact execDecl_next h

/-- A command that ends OK answers status 0. -/
theorem OkEffect.status {i : Instr} {s t : State} {r : Response} (h : OkEffect i s t) (hr : t.resp = some r) :
    r.status = 0 := by
  cases i with
  | nop => subst h; cases hr; rfl
  | reset => subst h; cases hr; rfl
  | construct k n => obtain ⟨-, -, -, -, -, rfl⟩ := h; cases hr; rfl
  | ldsym len sym => obtain ⟨-, -, _, _, -, -, -, -, rfl⟩ := h; cases hr; rfl
  | sealCode => obtain ⟨-, rfl⟩ := h; cases hr; rfl
  | mul len sel => obtain ⟨-, -, _, -, rfl⟩ := h; cases hr; rfl
  | wt len => obtain ⟨-, -, rfl⟩ := h; cases hr; rfl
  | rdm sel idx => obtain ⟨-, -, _, _, -, -, rfl⟩ := h; cases hr; rfl
  | rdst idx => obtain ⟨-, -, ⟨_, -, rfl⟩ | ⟨-, rfl⟩⟩ := h <;> cases hr <;> rfl
  | rdsto idx => obtain ⟨-, -, _, _, -, -, rfl⟩ := h; cases hr; rfl
  | rdcd idx => obtain ⟨-, -, _, _, -, -, rfl⟩ := h; cases hr; rfl
  | rdreg idx => obtain ⟨_, -, rfl⟩ := h; cases hr; rfl
  | dec len => obtain ⟨-, -, _, _, -, rfl⟩ := h; cases hr; rfl
  | decl len => obtain ⟨-, -, _, _, _, _, _, -, -, rfl⟩ := h; cases hr; rfl

/-- Every command that answers a next state gives a response. -/
theorem OkEffect.responds {i : Instr} {s t : State} (h : OkEffect i s t) : ∃ r, t.resp = some r := by
  cases i with
  | nop => subst h; exact ⟨_, rfl⟩
  | reset => subst h; exact ⟨_, rfl⟩
  | construct k n => obtain ⟨-, -, -, -, -, rfl⟩ := h; exact ⟨_, rfl⟩
  | ldsym len sym => obtain ⟨-, -, _, _, -, -, -, -, rfl⟩ := h; exact ⟨_, rfl⟩
  | sealCode => obtain ⟨-, rfl⟩ := h; exact ⟨_, rfl⟩
  | mul len sel => obtain ⟨-, -, _, -, rfl⟩ := h; exact ⟨_, rfl⟩
  | wt len => obtain ⟨-, -, rfl⟩ := h; exact ⟨_, rfl⟩
  | rdm sel idx => obtain ⟨-, -, _, _, -, -, rfl⟩ := h; exact ⟨_, rfl⟩
  | rdst idx => obtain ⟨-, -, ⟨_, -, rfl⟩ | ⟨-, rfl⟩⟩ := h <;> exact ⟨_, rfl⟩
  | rdsto idx => obtain ⟨-, -, _, _, -, -, rfl⟩ := h; exact ⟨_, rfl⟩
  | rdcd idx => obtain ⟨-, -, _, _, -, -, rfl⟩ := h; exact ⟨_, rfl⟩
  | rdreg idx => obtain ⟨_, -, rfl⟩ := h; exact ⟨_, rfl⟩
  | dec len => obtain ⟨-, -, _, _, -, rfl⟩ := h; exact ⟨_, rfl⟩
  | decl len => obtain ⟨-, -, _, _, _, _, _, -, -, rfl⟩ := h; exact ⟨_, rfl⟩

/-- What a command that ends OK does to PHASE (10_state R22). -/
theorem OkEffect.phase {i : Instr} {s t : State} (h : OkEffect i s t) :
    t.phase = s.phase ∨ (i = .reset ∧ t.phase = .empty) ∨
      (s.phase = .empty ∧ t.phase = .loading ∧ ∃ k n, i = .construct k n) ∨
      (s.phase = .loading ∧ t.phase = .ready ∧ i = .sealCode) := by
  cases i with
  | nop => subst h; exact .inl rfl
  | reset => subst h; exact .inr (.inl ⟨rfl, rfl⟩)
  | construct k n => obtain ⟨hp, -, -, -, -, rfl⟩ := h; exact .inr (.inr (.inl ⟨hp, rfl, k, n, rfl⟩))
  | ldsym len sym => obtain ⟨-, -, _, _, -, -, -, -, rfl⟩ := h; exact .inl rfl
  | sealCode => obtain ⟨hp, rfl⟩ := h; exact .inr (.inr (.inr ⟨hp, rfl, rfl⟩))
  | mul len sel => obtain ⟨-, -, _, -, rfl⟩ := h; exact .inl rfl
  | wt len => obtain ⟨-, -, rfl⟩ := h; exact .inl rfl
  | rdm sel idx => obtain ⟨-, -, _, _, -, -, rfl⟩ := h; exact .inl rfl
  | rdst idx => obtain ⟨-, -, ⟨_, -, rfl⟩ | ⟨-, rfl⟩⟩ := h <;> exact .inl rfl
  | rdsto idx => obtain ⟨-, -, _, _, -, -, rfl⟩ := h; exact .inl rfl
  | rdcd idx => obtain ⟨-, -, _, _, -, -, rfl⟩ := h; exact .inl rfl
  | rdreg idx => obtain ⟨_, -, rfl⟩ := h; exact .inl rfl
  | dec len =>
    obtain ⟨-, -, c, u, hc, rfl⟩ := h
    rcases locateError_state hc with ⟨-, rfl⟩ | ⟨-, -, rfl⟩ <;> exact .inl rfl
  | decl len =>
    obtain ⟨-, -, c, u, q, fb2, u', hc, hq, rfl⟩ := h
    obtain ⟨-, -, ⟨-, rfl, -⟩ | ⟨-, rfl, -⟩⟩ := resolveSymbol_ok hq <;>
      rcases locateError_state hc with ⟨-, rfl⟩ | ⟨-, -, rfl⟩ <;> exact .inl rfl

/-- A command that ends with an error answers the code of its cause. -/
theorem ErrorEffect.status {i : Instr} {s t : State} {r : Response} (h : ErrorEffect i s t)
    (hr : t.resp = some r) : ∃ e, r = { status := e.code } ∧ ErrorCause i s e := by
  obtain ⟨e, u, rfl, hc, -⟩ := h
  exact ⟨e, by simpa [errorResponse, eq_comm] using hr, hc⟩

/-- Which of the two it was, by the status. -/
theorem exec_next_ok {i : Instr} {s t : State} {r : Response} (h : exec i s = .next t) (hr : t.resp = some r)
    (h0 : r.status = 0) : OkEffect i s t := by
  rcases exec_next_cases h with hok | herr
  · exact hok
  · obtain ⟨e, rfl, -⟩ := herr.status hr
    exact absurd h0 e.code_ne_zero

theorem exec_next_error {i : Instr} {s t : State} {r : Response} (h : exec i s = .next t) (hr : t.resp = some r)
    (h0 : r.status ≠ 0) : ErrorEffect i s t := by
  rcases exec_next_cases h with hok | herr
  · exact absurd (hok.status hr) h0
  · exact herr

end Sys2Proof.Machine
end

