-- ==== Sys2Proof/Laws/Gf2.lean ====
section
/-! SUPPORT. The small lemmas of the algebra: lengths, elements, exclusive-or forms, and the elements of the built
matrices. Laws about whole products are statements, not here. -/

namespace Sys2Proof.Machine

/-- Sum modulo 2 is exclusive-or (40_gf2_algebra R130, K3). -/
@[simp] theorem parity_add_bits (a b : Bool) : parity (a.toNat + b.toNat) = (a ^^ b) := by
  cases a <;> cases b <;> rfl

theorem parity_add (x y : Nat) : parity (x + y) = (parity x ^^ parity y) := by
  rcases Nat.mod_two_eq_zero_or_one x with hx | hx <;> rcases Nat.mod_two_eq_zero_or_one y with hy | hy <;>
    simp [parity, Nat.add_mod, hx, hy]

@[simp] theorem parity_toNat (b : Bool) : parity b.toNat = b := by cases b <;> rfl

@[simp] theorem parity_zero : parity 0 = false := rfl

theorem vadd_eq_zipWith_xor (u v : Bits) : vadd u v = List.zipWith (fun a b => a ^^ b) u v := by
  simp [vadd]

@[simp] theorem length_vadd (u v : Bits) : (vadd u v).length = min u.length v.length := by
  simp [vadd]

@[simp] theorem length_vecmat (v : Bits) (m : Matrix) : (vecmat v m).length = m.cols := by
  simp [vecmat]

@[simp] theorem length_zeros (len : Nat) : (zeros len).length = len := by
  simp [zeros]

@[simp] theorem length_unitVec (len i : Nat) : (unitVec len i).length = len := by
  simp [unitVec]

@[simp] theorem length_unpack (len x : Nat) : (unpack len x).length = len := by
  simp [unpack]

@[simp] theorem getElem_vecmat (v : Bits) (m : Matrix) (j : Nat) (hj : j < (vecmat v m).length) :
    (vecmat v m)[j] = parity (dot v (column m j)) := by
  simp [vecmat]

@[simp] theorem getElem_unitVec (len i j : Nat) (hj : j < (unitVec len i).length) :
    (unitVec len i)[j] = (j == i) := by
  simp [unitVec]

@[simp] theorem getElem_vadd (u v : Bits) (j : Nat) (hj : j < (vadd u v).length) :
    (vadd u v)[j] = (u[j]'(by simp at hj; omega) ^^ v[j]'(by simp at hj; omega)) := by
  simp [vadd]

@[simp] theorem dot_nil_left (v : Bits) : dot [] v = 0 := rfl
@[simp] theorem dot_nil_right (v : Bits) : dot v [] = 0 := by cases v <;> rfl
@[simp] theorem dot_cons (a b : Bool) (u v : Bits) : dot (a :: u) (b :: v) = a.toNat * b.toNat + dot u v := rfl

@[simp] theorem length_column (m : Matrix) (j : Nat) : (column m j).length = m.rows.length := by
  simp [column]

theorem hasShape_iff {m : Matrix} {r c : Nat} :
    hasShape m r c = true ↔ m.rows.length = r ∧ m.cols = c ∧ ∀ row ∈ m.rows, row.length = c := by
  simp [hasShape, and_assoc]

/-- An element of a matrix, by proof of its indices. -/
theorem entry_eq_getElem (m : Matrix) {i j : Nat} (hi : i < m.rows.length) (hj : j < (m.rows[i]).length) :
    entry m i j = (m.rows[i])[j] := by
  simp [entry, List.getD_eq_getElem?_getD, List.getElem?_eq_getElem hi, List.getElem?_eq_getElem hj]

theorem getElem_column (m : Matrix) (j i : Nat) (hi : i < (column m j).length) :
    (column m j)[i] = entry m i j := by
  have hi' : i < m.rows.length := by simpa using hi
  simp [column, entry, List.getD_eq_getElem?_getD, List.getElem?_eq_getElem hi']

/-- The elements of G (41_generator_builder R162). -/
theorem entry_buildGenerator {k n i j : Nat} (hi : i < k) (hj : j < n) :
    entry (buildGenerator k n) i j = genEntry k i j := by
  simp [entry, buildGenerator, List.getD_eq_getElem?_getD, hi, hj]

/-- The elements of H (42_parity_check_builder R182). -/
theorem entry_buildParityCheck (g : Matrix) {k n i j : Nat} (hi : i < n) (hj : j < n - k) :
    entry (buildParityCheck g k n) i j = parityEntry g k i j := by
  simp [entry, buildParityCheck, List.getD_eq_getElem?_getD, hi, hj]

theorem buildGenerator_shape (k n : Nat) : hasShape (buildGenerator k n) k n = true := by
  simp [hasShape, buildGenerator]

theorem buildParityCheck_shape (g : Matrix) (k n : Nat) : hasShape (buildParityCheck g k n) n (n - k) = true := by
  simp [hasShape, buildParityCheck]

@[simp] theorem cols_buildGenerator (k n : Nat) : (buildGenerator k n).cols = n := rfl
@[simp] theorem cols_buildParityCheck (g : Matrix) (k n : Nat) : (buildParityCheck g k n).cols = n - k := rfl

@[simp] theorem length_enumCandidate (k n i : Nat) : (enumCandidate k n i).length = n := by
  simp [enumCandidate]

@[simp] theorem length_candidateOf (enum : List Candidate) (k n i : Nat) : (candidateOf enum k n i).length = n := by
  unfold candidateOf
  split <;> simp

@[simp] theorem length_enumOf (s : State) (k n i : Nat) : (s.enumOf k n i).length = n :=
  length_candidateOf _ _ _ _

/-- With nothing listed, the enumeration is that of 43_syndrome_table R204. -/
theorem candidateOf_nil : candidateOf [] = enumCandidate := rfl

/-- A listed value is the enumeration's, where every value listed is that of a function giving vectors of length n. -/
theorem candidateOf_of_mem {f : Nat → Nat → Nat → Bits} (hf : ∀ k n i, (f k n i).length = n) {enum : List Candidate}
    (hall : ∀ c ∈ enum, c.vector = f c.k c.n c.i) {k n i : Nat} (hmem : ⟨k, n, i, f k n i⟩ ∈ enum) :
    candidateOf enum k n i = f k n i := by
  unfold candidateOf
  split
  · next c hc =>
    have hkey := List.find?_some hc
    simp only [Bool.and_eq_true, beq_iff_eq] at hkey
    obtain ⟨⟨rfl, rfl⟩, rfl⟩ := hkey
    rw [hall c (List.mem_of_find?_eq_some hc)]
    apply List.ext_getElem
    · simp [hf]
    · intro j h1 h2
      simp [List.getD_eq_getElem?_getD, List.getElem?_eq_getElem h2]
  · next hn =>
    exact absurd hmem fun h => by simpa using List.find?_eq_none.mp hn _ h

/-- Every enumeration is that of some list, on all the arguments an instance can reach (00_scope R6 bounds them). -/
theorem exists_candidateOf_eq (f : Nat → Nat → Nat → Bits) (hf : ∀ k n i, (f k n i).length = n) (bound total : Nat) :
    ∃ enum : List Candidate, ∀ k n i, k < bound → n < bound → i < total → candidateOf enum k n i = f k n i := by
  refine ⟨(List.range bound).flatMap fun k => (List.range bound).flatMap fun n =>
    (List.range total).map fun i => ⟨k, n, i, f k n i⟩, fun k n i hk hn hi => candidateOf_of_mem hf ?_ ?_⟩
  · intro c hc
    simp only [List.mem_flatMap, List.mem_map] at hc
    obtain ⟨_, -, _, -, _, -, rfl⟩ := hc
    rfl
  · simp only [List.mem_flatMap, List.mem_map, List.mem_range]
    exact ⟨k, hk, n, hn, i, hi, rfl⟩

end Sys2Proof.Machine
end

