-- ==== Sys2Proof/Laws/Built.lean ====
section
/-! SUPPORT. What the reads of the memories answer once a code is built and the invariant holds, and the meanings of the
decodes past their checks. -/

namespace Sys2Proof.Machine

variable {s : State}

theorem State.Inv.built (hi : s.Inv) (hp : s.phase ≠ .empty) :
    s.ParametersOk ∧ s.ArtifactsOk ∧ s.DictionaryOk :=
  hi.2.2.1 hp

theorem built_phase {p : Phase} (hp : p = .loading ∨ p = .ready) : p ≠ .empty ∧ p ≠ .faulted ∧ inBuilt p = true := by
  rcases hp with rfl | rfl <;> decide

theorem State.Inv.genMatrix_eq (hi : s.Inv) (hp : s.phase ≠ .empty) : s.genMatrix = some s.g := by
  unfold State.genMatrix
  rw [(hi.built hp).2.1.1, if_pos (buildGenerator_shape _ _)]

theorem State.Inv.parityMatrix_eq (hi : s.Inv) (hp : s.phase ≠ .empty) : s.parityMatrix = some s.h := by
  unfold State.parityMatrix
  rw [(hi.built hp).2.1.2.1]
  exact if_pos (buildParityCheck_shape _ _ _)

theorem State.Inv.view_eq (hi : s.Inv) (hp : s.phase ≠ .empty) (sel : Sel) : s.view sel = some (viewOf s.g s.h sel) := by
  cases sel <;> simp [State.view, hi.genMatrix_eq hp, hi.parityMatrix_eq hp, viewOf]

theorem State.Inv.dictionary_eq (hi : s.Inv) (hp : s.phase ≠ .empty) : s.dictionary = some s.cd := by
  unfold State.dictionary
  rw [if_pos (hi.built hp).2.2.1]

theorem State.Inv.locateError_eq (hi : s.Inv) (hp : s.phase ≠ .empty) (y : Bits) :
    locateError y s = chooseError (pack (vecmat y s.h)) s := by
  simp [locateError, hi.parityMatrix_eq hp]

theorem viewRows_eq_rowsOf (s : State) (sel : Sel) : s.viewRows sel = rowsOf s.kVal s.nVal sel := by
  cases sel <;> rfl

end Sys2Proof.Machine
end

