-- ==== Sys2Proof/Laws/Memory.lean ====
section
/-! SUPPORT. The ROM: a write keeps the canonical form, a read of the address written gives what was written, and
every other address reads as before. -/

namespace Sys2Proof.Machine

@[simp] theorem Memory.read_nil (a : Nat) : Memory.read [] a = none := rfl

theorem Memory.read_cons (b : Nat) (f : Bits) (rest : Memory) (a : Nat) :
    Memory.read ((b, f) :: rest) a = if b = a then some f else Memory.read rest a := by
  by_cases h : b = a
  · simp [Memory.read, h]
  · simp [Memory.read, h]

/-- An address below every listed one is not listed. -/
theorem Memory.read_eq_none_of_lt {m : Memory} {a : Nat} (h : ∀ b ∈ m.map Prod.fst, a < b) :
    m.read a = none := by
  induction m with
  | nil => rfl
  | cons cell rest ih =>
    obtain ⟨b, f⟩ := cell
    have hb : a < b := h b (by simp)
    rw [Memory.read_cons, if_neg (by omega)]
    exact ih fun c hc => h c (by simp [hc])

@[simp] theorem Memory.read_write_self (m : Memory) (a : Nat) (e : Bits) : (m.write a e).read a = some e := by
  induction m with
  | nil => simp [Memory.write, Memory.read_cons]
  | cons cell rest ih =>
    obtain ⟨b, f⟩ := cell
    simp only [Memory.write]
    split
    · simp [Memory.read_cons]
    · split
      · simp [Memory.read_cons]
      · rw [Memory.read_cons, if_neg (by omega)]
        exact ih

theorem Memory.read_write_other {m : Memory} {a b : Nat} (e : Bits) (hm : m.wf) (hab : b ≠ a) :
    (m.write a e).read b = m.read b := by
  induction m with
  | nil => simp [Memory.write, Memory.read_cons, Ne.symm hab]
  | cons cell rest ih =>
    obtain ⟨c, f⟩ := cell
    have hrest : Memory.wf rest := (List.pairwise_cons.mp hm).2
    simp only [Memory.write]
    split
    · rw [Memory.read_cons, if_neg (Ne.symm hab)]
    · split
      · next hac => subst hac; rw [Memory.read_cons, Memory.read_cons, if_neg (Ne.symm hab), if_neg (Ne.symm hab)]
      · rw [Memory.read_cons, Memory.read_cons, ih hrest]

/-- The addresses listed after a write. -/
theorem Memory.mem_fst_write {m : Memory} {a b : Nat} {e : Bits} :
    b ∈ (m.write a e).map Prod.fst ↔ b = a ∨ b ∈ m.map Prod.fst := by
  induction m with
  | nil => simp [Memory.write]
  | cons cell rest ih =>
    obtain ⟨c, f⟩ := cell
    simp only [Memory.write]
    split
    · simp
    · split
      · next hac => subst hac; simp
      · simp only [List.map_cons, List.mem_cons, ih]
        tauto

theorem Memory.write_wf {m : Memory} (a : Nat) (e : Bits) (hm : m.wf) : (m.write a e).wf := by
  induction m with
  | nil => simp [Memory.write, Memory.wf]
  | cons cell rest ih =>
    obtain ⟨c, f⟩ := cell
    obtain ⟨hc, hrest⟩ := List.pairwise_cons.mp hm
    simp only [Memory.write]
    split
    · next hac =>
      refine List.pairwise_cons.mpr ⟨fun b hb => ?_, hm⟩
      rcases List.mem_cons.mp hb with rfl | hb
      · exact hac
      · exact lt_trans hac (hc b hb)
    · split
      · next hac => subst hac; exact hm
      · next h1 h2 =>
        refine List.pairwise_cons.mpr ⟨fun b hb => ?_, ih hrest⟩
        rcases Memory.mem_fst_write.mp hb with rfl | hb
        · show c < b; omega
        · exact hc b hb

/-- An address is listed exactly when it has V = 1. -/
theorem Memory.isSome_read_iff {m : Memory} {a : Nat} : (m.read a).isSome = true ↔ a ∈ m.map Prod.fst := by
  induction m with
  | nil => simp
  | cons cell rest ih =>
    obtain ⟨c, f⟩ := cell
    rw [Memory.read_cons]
    by_cases h : c = a
    · simp [h]
    · simp only [if_neg h, ih, List.map_cons, List.mem_cons, Ne.symm h, false_or]

/-- The memory of the reset state has the canonical form. -/
theorem reset_memory_wf : Memory.wf State.reset.st := List.Pairwise.nil

end Sys2Proof.Machine
end

