-- ==== Sys2Proof/Laws/PerInstr.lean ====
section
/-! SUPPORT. The fields of a word put together from its parts, and the op of every command's word, per constructor
(spec/30_encoding.md R90 to R100). -/

namespace Sys2Proof

theorem toNat_append_add {v w : Nat} (x : BitVec v) (y : BitVec w) :
    (x ++ y).toNat = x.toNat * 2 ^ w + y.toNat := by
  rw [BitVec.toNat_append, ← Nat.shiftLeft_add_eq_or_of_lt y.isLt, Nat.shiftLeft_eq]

/-- A word of four bytes has them as its fields. -/
theorem fields_of_bytes (a b c d : BitVec 8) :
    opField (a ++ b ++ c ++ d) = a ∧ byte2 (a ++ b ++ c ++ d) = b ∧ byte1 (a ++ b ++ c ++ d) = c ∧
      byte0 (a ++ b ++ c ++ d) = d ∧ half0 (a ++ b ++ c ++ d) = c ++ d ∧ low24 (a ++ b ++ c ++ d) = b ++ c ++ d := by
  have ha := a.isLt; have hb := b.isLt; have hc := c.isLt; have hd := d.isLt
  refine ⟨?_, ?_, ?_, ?_, ?_, ?_⟩ <;> apply BitVec.eq_of_toNat_eq <;>
    simp only [opField, byte2, byte1, byte0, half0, low24, BitVec.extractLsb'_toNat, toNat_append_add,
      Nat.shiftRight_eq_div_pow] <;> omega

/-- A word of two bytes and a half has them as its fields. -/
theorem fields_of_half (a b : BitVec 8) (h : BitVec 16) :
    opField (a ++ b ++ h) = a ∧ byte2 (a ++ b ++ h) = b ∧ half0 (a ++ b ++ h) = h := by
  have ha := a.isLt; have hb := b.isLt; have hh := h.isLt
  refine ⟨?_, ?_, ?_⟩ <;> apply BitVec.eq_of_toNat_eq <;>
    simp only [opField, byte2, half0, BitVec.extractLsb'_toNat, toNat_append_add, Nat.shiftRight_eq_div_pow] <;> omega

/-- Every word is its four bytes. -/
theorem word_of_bytes (w : Word) : opField w ++ byte2 w ++ byte1 w ++ byte0 w = w := by
  have hw := w.isLt
  apply BitVec.eq_of_toNat_eq
  simp only [opField, byte2, byte1, byte0, BitVec.extractLsb'_toNat, toNat_append_add, Nat.shiftRight_eq_div_pow]
  omega

/-- Every word is its two upper bytes and its lower half. -/
theorem word_of_half (w : Word) : opField w ++ byte2 w ++ half0 w = w := by
  have hw := w.isLt
  apply BitVec.eq_of_toNat_eq
  simp only [opField, byte2, half0, BitVec.extractLsb'_toNat, toNat_append_add, Nat.shiftRight_eq_div_pow]
  omega

@[simp] theorem selOfByte_byte (sel : Sel) : selOfByte sel.byte = some sel := by cases sel <;> rfl

/-- A byte that names a selector is that selector's byte. -/
theorem byte_of_selOfByte {b : BitVec 8} {sel : Sel} (h : selOfByte b = some sel) : sel.byte = b := by
  unfold selOfByte at h
  split at h <;> cases h
  all_goals next hb => exact BitVec.eq_of_toNat_eq (by rw [hb]; rfl)

/-- The op of a command's word is the op of its row of R100. -/
def Laws.EncodeOp.Statement (i : Instr) : Prop :=
  opField (encode i) = i.opcode

namespace Laws.EncodeOp

theorem nop : Statement .nop := rfl
theorem reset : Statement .reset := rfl
theorem construct (k n : BitVec 8) : Statement (.construct k n) := (fields_of_bytes _ _ _ _).1
theorem ldsym (len : BitVec 8) (sym : Symbol) : Statement (.ldsym len sym) := (fields_of_half _ _ _).1
theorem sealCode : Statement .sealCode := rfl
theorem mul (len : BitVec 8) (sel : Sel) : Statement (.mul len sel) := (fields_of_bytes _ _ _ _).1
theorem wt (len : BitVec 8) : Statement (.wt len) := (fields_of_bytes _ _ _ _).1
theorem rdm (sel : Sel) (idx : BitVec 16) : Statement (.rdm sel idx) := (fields_of_half _ _ _).1
theorem rdst (idx : BitVec 16) : Statement (.rdst idx) := (fields_of_half _ _ _).1
theorem rdsto (idx : BitVec 16) : Statement (.rdsto idx) := (fields_of_half _ _ _).1
theorem rdcd (idx : BitVec 16) : Statement (.rdcd idx) := (fields_of_half _ _ _).1
theorem rdreg (idx : BitVec 16) : Statement (.rdreg idx) := (fields_of_half _ _ _).1
theorem dec (len : BitVec 8) : Statement (.dec len) := (fields_of_bytes _ _ _ _).1
theorem decl (len : BitVec 8) : Statement (.decl len) := (fields_of_bytes _ _ _ _).1

end Laws.EncodeOp

end Sys2Proof
end

