-- ==== Sys2Proof/Laws/Table.lean ====
section
/-! SUPPORT. All that one candidate does to the syndrome table (spec/43_syndrome_table.md R205 to R207), and how the
builder's fold is taken apart. -/

namespace Sys2Proof.Machine

/-- A write to an unlisted address lists one more. -/
theorem Memory.length_write_of_none {m : Memory} {a : Nat} {e : Bits} (h : m.read a = none) :
    (m.write a e).length = m.length + 1 := by
  induction m with
  | nil => rfl
  | cons cell rest ih =>
    obtain ⟨b, f⟩ := cell
    rw [Memory.read_cons] at h
    simp only [Memory.write]
    split
    · rfl
    · split
      · next hab => subst hab; simp at h
      · split at h
        · cases h
        · simp [ih h]

/-- A read after a write, whichever address. -/
theorem Memory.read_write {m : Memory} {a : Nat} (e : Bits) (hm : m.wf) (b : Nat) :
    (m.write a e).read b = if b = a then some e else m.read b := by
  split
  · next hb => subst hb; exact Memory.read_write_self _ _ _
  · next hb => exact Memory.read_write_other _ hm hb

/-- One candidate: recorded, with a syndrome that is not all-zero and had no entry, or nothing. -/
theorem tryCandidate_cases (h : Matrix) (t : SynTable) (c : Bits) :
    (pack (vecmat c h) ≠ 0 ∧ t.st.read (pack (vecmat c h)) = none ∧
      tryCandidate h t c = ⟨t.st.write (pack (vecmat c h)) c, t.ord ++ [pack (vecmat c h)]⟩) ∨
    ((pack (vecmat c h) = 0 ∨ t.st.read (pack (vecmat c h)) ≠ none) ∧ tryCandidate h t c = t) := by
  unfold tryCandidate
  dsimp only
  split
  · next hc => exact .inl ⟨hc.1, hc.2, rfl⟩
  · next hc => exact .inr ⟨by tauto, rfl⟩

/-- The builder, one candidate at a time: what holds of the empty table and is kept by each candidate, in order,
holds of the table that is built. -/
theorem buildSyndromeTable_induct {enum : Nat → Nat → Nat → Bits} {h : Matrix} {n k : Nat}
    (motive : Nat → SynTable → Prop) (empty : motive 0 ⟨[], []⟩)
    (next : ∀ i t, motive i t → motive (i + 1) (tryCandidate h t (enum k n i))) :
    motive (candidateTotal k n) (buildSyndromeTable enum h n k) := by
  unfold buildSyndromeTable
  generalize candidateTotal k n = total
  induction total with
  | zero => exact empty
  | succ total ih =>
    rw [List.range_succ, List.map_append, List.foldl_append]
    exact next total _ ih

end Sys2Proof.Machine
end

