-- ==== Sys2Proof/Laws/Vectors.lean ====
section
/-! SUPPORT. The recursion equations of pack, unpack, weight and dot products, and the columns of the built matrices:
what the laws about whole products rest on (spec/00_scope.md R11, spec/40_gf2_algebra.md R131, R145). -/

namespace Sys2Proof.Machine

/-! Packing: the last element is bit 0. -/

theorem pack_append_singleton (u : Bits) (b : Bool) : pack (u ++ [b]) = 2 * pack u + b.toNat := by
  simp [pack, List.foldl_append]

theorem unpack_succ (len x : Nat) : unpack (len + 1) x = unpack len (x / 2) ++ [x.testBit 0] := by
  simp only [unpack, List.range_succ, List.map_append, List.map_cons, List.map_nil]
  congr 1
  · apply List.map_congr_left
    intro i hi
    have : i < len := List.mem_range.mp hi
    rw [show len + 1 - 1 - i = (len - 1 - i) + 1 by omega, Nat.testBit_succ]
  · simp

/-! Weights and dot products, element by element. -/

theorem weight_cons (b : Bool) (v : Bits) : weight (b :: v) = b.toNat + weight v := by
  cases b <;> simp [weight]; omega

theorem dot_comm (u v : Bits) : dot u v = dot v u := by
  unfold dot; rw [List.zipWith_comm]; simp [Nat.mul_comm]

theorem dot_append {u u' v v' : Bits} (h : u.length = v.length) :
    dot (u ++ u') (v ++ v') = dot u v + dot u' v' := by
  unfold dot; rw [List.zipWith_append h, List.sum_append]

theorem dot_replicate_false (r : Nat) (w : Bits) : dot (List.replicate r false) w = 0 := by
  induction r generalizing w with
  | zero => rfl
  | succ r ih => cases w <;> simp [List.replicate_succ, ih]

theorem unitVec_zero (r : Nat) : unitVec (r + 1) 0 = true :: List.replicate r false := by
  simp only [unitVec, List.range_succ_eq_map, List.map_cons, List.map_map]
  congr 1
  apply List.ext_getElem <;> simp

theorem unitVec_succ (r i : Nat) : unitVec (r + 1) (i + 1) = false :: unitVec r i := by
  simp only [unitVec, List.range_succ_eq_map, List.map_cons, List.map_map]
  congr 1
  apply List.ext_getElem <;> simp

/-- A dot product with e_i picks element i. -/
theorem dot_unitVec {i : Nat} {w : Bits} (hi : i < w.length) : dot (unitVec w.length i) w = (w[i]).toNat := by
  induction w generalizing i with
  | nil => simp at hi
  | cons b w ih =>
    cases i with
    | zero => simp [unitVec_zero, dot_replicate_false]
    | succ i => simpa [unitVec_succ] using ih (by simpa using hi)

/-- A dot product with all ones but at j counts the ones but at j. -/
theorem dot_offDiagonal (u : Bits) (j : Nat) :
    dot u ((List.range u.length).map fun i => i != j) + (u.getD j false).toNat = weight u := by
  induction u generalizing j with
  | nil => simp [weight]
  | cons b u ih =>
    rw [List.length_cons, List.range_succ_eq_map, List.map_cons, dot_cons, weight_cons, List.map_map]
    cases j with
    | zero =>
      have := ih u.length
      have e : (List.range u.length).map ((fun i => i != 0) ∘ Nat.succ) =
          (List.range u.length).map fun i => i != u.length := by
        apply List.map_congr_left; intro i hi; rw [List.mem_range] at hi; simp; omega
      rw [e]
      simp at this ⊢; omega
    | succ j =>
      have := ih j
      have e : (List.range u.length).map ((fun i => i != j + 1) ∘ Nat.succ) =
          (List.range u.length).map fun i => i != j := by
        apply List.map_congr_left; intro i hi; simp
      rw [e]
      simp at this ⊢; omega

/-! The columns of the built matrices (41_generator_builder R162, 42_parity_check_builder R182). -/

theorem column_buildGenerator_left {k n j : Nat} (hkn : k < n) (hj : j < k) :
    column (buildGenerator k n) j = unitVec k j := by
  apply List.ext_getElem
  · simp [buildGenerator]
  · intro i h1 h2
    have hi : i < k := by simpa [buildGenerator] using h1
    rw [getElem_column, entry_buildGenerator hi (by omega)]
    simp [genEntry, hj, eq_comm]

theorem column_buildGenerator_right {k n t : Nat} (hkn : k < n) (ht : t < n - k) :
    column (buildGenerator k n) (k + t) = (List.range k).map fun i => i != t := by
  apply List.ext_getElem
  · simp [buildGenerator]
  · intro i h1 h2
    have hi : i < k := by simpa [buildGenerator] using h1
    rw [getElem_column, entry_buildGenerator hi (by omega)]
    simp [genEntry, aEntry]

theorem entry_builtParityCheck {k n i j : Nat} (hkn : k < n) (hi : i < n) (hj : j < n - k) :
    entry (buildParityCheck (buildGenerator k n) k n) i j = if i < k then (i != j) else (i - k == j) := by
  rw [entry_buildParityCheck _ hi hj]
  unfold parityEntry
  split
  · next h => rw [entry_buildGenerator h (by omega)]; simp [genEntry, aEntry]
  · rfl

theorem column_builtParityCheck {k n j : Nat} (hkn : k < n) (hj : j < n - k) :
    column (buildParityCheck (buildGenerator k n) k n) j =
      ((List.range k).map fun i => i != j) ++ unitVec (n - k) j := by
  apply List.ext_getElem
  · simp [buildParityCheck]; omega
  · intro i h1 h2
    have hi : i < n := by simpa [buildParityCheck] using h1
    rw [getElem_column, entry_builtParityCheck hkn hi hj]
    by_cases h : i < k
    · rw [List.getElem_append_left (by simpa using h)]; simp [h]
    · rw [List.getElem_append_right (by simpa using h)]; simp [h]

/-! Matrices of one shape are equal when their elements are. -/

theorem matrix_ext {a b : Matrix} {r c : Nat} (ha : hasShape a r c = true) (hb : hasShape b r c = true)
    (h : ∀ i j, i < r → j < c → entry a i j = entry b i j) : a = b := by
  obtain ⟨a1, a2, a3⟩ := hasShape_iff.mp ha
  obtain ⟨b1, b2, b3⟩ := hasShape_iff.mp hb
  obtain ⟨ac, ar⟩ := a
  obtain ⟨bc, br⟩ := b
  simp only at a1 a2 a3 b1 b2 b3
  subst a2; subst b2
  congr 1
  apply List.ext_getElem
  · omega
  · intro i i1 i2
    have la := a3 _ (List.getElem_mem i1)
    have lb := b3 _ (List.getElem_mem i2)
    apply List.ext_getElem
    · omega
    · intro j j1 j2
      have := h i j (by omega) (by omega)
      rwa [entry_eq_getElem _ (by simpa using i1) (by simpa using j1),
        entry_eq_getElem _ (by simpa using i2) (by simpa using j2)] at this

end Sys2Proof.Machine
end

