-- ==== Sys2Proof/Tests/Slice0.lean ====
section
/-! SUPPORT. Tests: the checks of WellFormed, the decoding of words written out from the encodings of
spec/30_encoding.md, one step per command with the responses of spec/95_test_vectors.md, and for every statement with
hypotheses a witness that meets them. -/

namespace Sys2Proof.Tests

open Sys2Proof.Machine

/-! ### Helpers -/

/-- The state after CONSTRUCT k, n from reset: phase LOADING, an empty dictionary. -/
def coded (k n : BitVec 8) : State :=
  State.reset.constructed k n

/-- With a vector on `din`. -/
def onDin (d : PortVec) (s : State) : State :=
  { s with din := d }

/-- With one entry in the dictionary. -/
def holding (cw : Bits) (sym : Symbol) (s : State) : State :=
  { s with cd := [⟨cw, sym⟩], cdCount := 1 }

/-- In phase READY. -/
def readied (s : State) : State :=
  { s with phase := .ready }

/-- With draws queued. -/
def drawing (ds : List Nat) (s : State) : State :=
  { s with draws := ds }

/-- After a DimensionMismatch. -/
def locked (s : State) : State :=
  { s with phase := .faulted, errbits := 0x004, lastErr := 2 }

/-- With one event in the inbox. -/
def given (e : HostEvent) (s : State) : State :=
  { s with inbox := [e] }

/-- The response of a step that answers a next state. -/
def responseOf : Result → Option Response
  | .next t => t.resp
  | .fault _ => none
  | .refused _ => none

/-- The phase after a step that answers a next state. -/
def phaseOf : Result → Option Phase
  | .next t => some t.phase
  | .fault _ => none
  | .refused _ => none

/-- On an instance with these candidates in its enumeration. -/
def enumerating (enum : List Candidate) (s : State) : State :=
  { s with enum := enum }

/-- A vector of 0 and 1, element 0 first (00_scope R10). -/
def bits (v : List Nat) : Bits :=
  v.map fun x => x == 1

/-- The (4,7) code, LOADING, one entry: the codeword 1011010 of the message 1011. -/
def coded47One : State :=
  holding (bits [1, 0, 1, 1, 0, 1, 0]) 0x41 (coded 4 7)

/-! ### WellFormed: a symbol that does not fit SYMW bits (30_encoding R95) -/

theorem test_wellFormed_symbol : (Instr.ldsym 8 0xFF).wellFormed 8 = true := by decide
theorem test_illFormed_symbol : (Instr.ldsym 8 0x100).wellFormed 8 = false := by decide
theorem test_illFormed_symbol_symw4 : (Instr.ldsym 4 0x10).wellFormed 4 = false := by decide
theorem test_wellFormed_symbol_symw16 : (Instr.ldsym 4 0xFFFF).wellFormed 16 = true := by decide

/-! ### Decoding: words bit by bit from R91 to R100 -/

theorem test_decode_nop : decode 8 0b00000000000000000000000000000000 = .ok .nop := by decide
theorem test_decode_reset : decode 8 0b00000001000000000000000000000000 = .ok .reset := by decide
theorem test_decode_construct : decode 8 0b00000010000010000000110000000000 = .ok (.construct 8 12) := by decide
theorem test_decode_ldsym : decode 8 0b00000011000010000000000001000001 = .ok (.ldsym 8 0x41) := by decide
theorem test_decode_seal : decode 8 0b00000100000000000000000000000000 = .ok .sealCode := by decide
theorem test_decode_mul_g : decode 8 0b00010000000010000000000000000000 = .ok (.mul 8 .g) := by decide
theorem test_decode_mul_h : decode 8 0b00010000000011000000000100000000 = .ok (.mul 12 .h) := by decide
theorem test_decode_mul_gt : decode 8 0b00010000000011000000001000000000 = .ok (.mul 12 .gt) := by decide
theorem test_decode_mul_ht : decode 8 0b00010000000001000000001100000000 = .ok (.mul 4 .ht) := by decide
theorem test_decode_wt : decode 8 0b00010001001000000000000000000000 = .ok (.wt 32) := by decide
theorem test_decode_rdm : decode 8 0b00100000000000110000000000000010 = .ok (.rdm .ht 2) := by decide
theorem test_decode_rdst : decode 8 0b00100001000000001000000000001111 = .ok (.rdst 0x800F) := by decide
theorem test_decode_rdsto : decode 8 0b00100010000000000000000100000000 = .ok (.rdsto 0x0100) := by decide
theorem test_decode_rdcd : decode 8 0b00100011000000000000000000000001 = .ok (.rdcd 1) := by decide
theorem test_decode_rdreg : decode 8 0b00100100000000000000000000001101 = .ok (.rdreg 13) := by decide
theorem test_decode_dec : decode 8 0b00110000000001110000000000000000 = .ok (.dec 7) := by decide
theorem test_decode_decl : decode 8 0b00110001000011000000000000000000 = .ok (.decl 12) := by decide

/-! Reserved words (30_encoding R110, R117; 95_test_vectors, Encoding). -/

theorem test_reserved_construct_low_byte : decode 8 0x02080C01 = .error .zeroField := by decide
theorem test_reserved_ldsym_bit8 : decode 8 0x0308014D = .error .symbolBits := by decide
theorem test_reserved_mul_sel4 : decode 8 0x100C0400 = .error .selector := by decide
theorem test_reserved_mul_low_byte : decode 8 0x100C0101 = .error .zeroField := by decide
theorem test_reserved_wt_sel : decode 8 0x11040100 = .error .selector := by decide
theorem test_reserved_rdm_sel4 : decode 8 0x20040000 = .error .selector := by decide
theorem test_reserved_rdst_sel : decode 8 0x21010000 = .error .selector := by decide
theorem test_reserved_decl_sel : decode 8 0x31070100 = .error .selector := by decide
theorem test_reserved_nop_low : decode 8 0x00000001 = .error .zeroField := by decide
theorem test_reserved_op05 : decode 8 0x05000000 = .error .opcode := by decide
theorem test_reserved_op12 : decode 8 0x12000000 = .error .opcode := by decide
theorem test_reserved_op25 : decode 8 0x25000000 = .error .opcode := by decide
theorem test_reserved_op32 : decode 8 0x32000000 = .error .opcode := by decide
theorem test_reserved_opFF : decode 8 0xFF000000 = .error .opcode := by decide
theorem test_reserved_by_symw : decode 4 0x03040010 = .error .symbolBits := by decide
theorem test_accepted_by_symw : decode 8 0x03040010 = .ok (.ldsym 4 0x10) := by decide

/-! The host's two questions, on one word. -/

theorem test_decodeTableWord : decodeTableWord 32 0x24000005 = some (.rdreg 5) := by decide
theorem test_withFetchWord :
    responseOf (step (State.reset.withFetchWord 32 0x2400000B)) = some { val := 0x20081020 } := by
  decide

/-! ### One step per command (spec/95_test_vectors.md Part 2) -/

/-- NOP, in phase FAULTED too. -/
theorem test_nop :
    responseOf (exec .nop (locked (coded 4 7))) = some {} := by
  decide

/-- Reset: phase EMPTY again. -/
theorem test_reset :
    phaseOf (exec .reset (locked (coded 4 7))) = some .empty := by
  decide

/-- CONSTRUCT 4, 7: val 7. -/
theorem test_construct_4_7 :
    responseOf (exec (.construct 4 7) State.reset) = some { val := 7 } := by
  decide

/-- Another reading of ENUM (00_scope R7): the first candidate of (1,3) is 001, whose syndrome is 1, where R204 gives 100. -/
theorem test_construct_enum :
    responseOf (exec (.rdsto 0) ((enumerating [⟨1, 3, 0, bits [0, 0, 1]⟩] State.reset).constructed 1 3)) =
      some { tags := 0x08, val := 1, dout := 0x1 } := by
  decide

/-- CONSTRUCT 200, 100: InvalidParameters before capacity. -/
theorem test_construct_200_100 :
    responseOf (exec (.construct 200 100) State.reset) = some { status := 1 } := by
  decide

/-- The codeword of 1011 is 1011010 ("MUL.G 1011" gives 0x5A). -/
theorem test_ldsym_3 :
    responseOf (exec (.ldsym 4 0x41) (onDin 0xB (coded 4 7))) = some { sym := 0x41, dout := 0x5A } := by
  decide

/-- The same message again, DuplicateCodeword. -/
theorem test_ldsym_duplicate :
    responseOf (exec (.ldsym 4 0x42) (onDin 0xB coded47One)) = some { status := 7 } := by
  decide

/-- SEAL answers CD_COUNT. -/
theorem test_seal :
    responseOf (exec .sealCode coded47One) = some { val := 1 } := by
  decide

/-- READY, SEAL: WrongPhase. -/
theorem test_seal_ready :
    responseOf (exec .sealCode (readied (coded 4 7))) = some { status := 4 } := by
  decide

/-- (4,7) MUL.GT 1000011. -/
theorem test_mul_gt :
    responseOf (exec (.mul 7 .gt) (onDin 0x43 (coded 4 7))) = some { dout := 0xE } := by
  decide

/-- (4,7) MUL.HT 111. -/
theorem test_mul_ht :
    responseOf (exec (.mul 3 .ht) (onDin 0x7 (coded 4 7))) = some { dout := 0x0F } := by
  decide

/-- WT len = 4 counts bits [3:0] only. -/
theorem test_wt_len4 :
    responseOf (exec (.wt 4) (onDin 0xFF State.reset)) = some { val := 4 } := by
  decide

/-- WT len = 33, above N_MAX. -/
theorem test_wt_len33 :
    responseOf (exec (.wt 33) State.reset) = some { status := 5 } := by
  decide

/-- (4,7) RDM.GT 4: 0111. -/
theorem test_rdm_gt4 :
    responseOf (exec (.rdm .gt 4) (coded 4 7)) = some { dout := 0x7 } := by
  decide

/-- (4,7) RDM.HT 1: 1011010. -/
theorem test_rdm_ht1 :
    responseOf (exec (.rdm .ht 1) (coded 4 7)) = some { dout := 0x5A } := by
  decide

/-- (4,7) RDST 4. -/
theorem test_rdst_4 :
    responseOf (exec (.rdst 4) (coded 4 7)) = some { tags := 0x08, val := 1, dout := 0x04 } := by
  decide

/-- (4,7) RDST 8: 8 locations. -/
theorem test_rdst_8 :
    responseOf (exec (.rdst 8) (coded 4 7)) = some { status := 5 } := by
  decide

/-- (4,7) RDSTO 0. -/
theorem test_rdsto_0 :
    responseOf (exec (.rdsto 0) (coded 4 7)) = some { tags := 0x08, val := 3, dout := 0x40 } := by
  decide

/-- (4,7) RDSTO 6. -/
theorem test_rdsto_6 :
    responseOf (exec (.rdsto 6) (coded 4 7)) = some { tags := 0x08, val := 1, dout := 0x01 } := by
  decide

/-- RDCD 0. -/
theorem test_rdcd_0 :
    responseOf (exec (.rdcd 0) coded47One) = some { sym := 0x41, dout := 0x5A } := by
  decide

/-- RDCD past CD_COUNT. -/
theorem test_rdcd_1 :
    responseOf (exec (.rdcd 1) coded47One) = some { status := 5 } := by
  decide

/-- RDREG CAND_COUNT of (1,3). -/
theorem test_rdreg_candCount :
    responseOf (exec (.rdreg 6) (coded 1 3)) = some { val := 3 } := by
  decide

/-- RDREG 13. -/
theorem test_rdreg_13 :
    responseOf (exec (.rdreg 13) State.reset) = some { status := 5 } := by
  decide

/-- (4,7) DEC 1011110. -/
theorem test_dec_single_flip :
    responseOf (exec (.dec 7) (onDin 0x5E (coded 4 7))) = some { val := 1, dout := 0x5A } := by
  decide

/-- (2,3) DEC 010: EmptyFallback. -/
theorem test_dec_empty_table :
    responseOf (exec (.dec 3) (onDin 0x2 (coded 2 3))) = some { status := 8 } := by
  decide

/-- DECL of the codeword of an entry (44_decoder R256). -/
theorem test_decl_match :
    responseOf (exec (.decl 7) (onDin 0x5A (readied coded47One))) = some { tags := 0x04, sym := 0x41, dout := 0x5A } := by
  decide

/-- DECL in LOADING: WrongPhase before DimensionMismatch. -/
theorem test_decl_loading :
    responseOf (exec (.decl 6) (coded 4 7)) = some { status := 4 } := by
  decide

/-! ### Witnesses: states and operands that meet the hypotheses of the statements, clause by clause

The small codes of 41_generator_builder R169 and 43_syndrome_table R218: (1,3) has codewords 000 and 101, H rows 01, 10,
01, the table 1 <- 100, 2 <- 010 and no entry for syndrome 3; (2,3) has an empty table. -/

/-- A step answered a next state with this response. -/
theorem answers {res : Result} {r : Response} (h : responseOf res = some r) : ∃ t, res = .next t ∧ t.resp = some r := by
  cases res with
  | next t => exact ⟨t, rfl, h⟩
  | fault f => cases h
  | refused f => cases h

/-- A step answered a next state in this phase. -/
theorem reaches {res : Result} {p : Phase} (h : phaseOf res = some p) : ∃ t, res = .next t ∧ t.phase = p := by
  cases res with
  | next t => exact ⟨t, rfl, by simpa [phaseOf] using h⟩
  | fault f => cases h
  | refused f => cases h

/-- The (1,3) code, LOADING, no entries. -/
def loading13 : State := coded 1 3
/-- The (1,3) code, LOADING, the entry 101. -/
def loading13One : State := holding (bits [1, 0, 1]) 0x41 loading13
/-- The (1,3) code, READY, no entries. -/
def ready13 : State := readied loading13
/-- The (1,3) code, READY, the entry 101. -/
def ready13One : State := readied loading13One
/-- The (1,3) code on an instance with A_MAX = 1, LOADING, the entry 101: the dictionary is full. -/
def full13 : State := { loading13One with caps := { Config.defaultCaps with aMax := 1 } }
/-- The (2,3) code, LOADING. -/
def loading23 : State := coded 2 3
/-- The (2,3) code, READY, the entry 100. -/
def ready23One : State := readied (holding (bits [1, 0, 0]) 0x41 loading23)
/-- The (1,3) code after a DimensionMismatch. -/
def locked13 : State := locked loading13

theorem inv_reset : State.reset.Inv := ⟨by decide, by decide, by decide, by decide, by decide⟩
theorem inv_loading13 : loading13.Inv := ⟨by decide, by decide, by decide, by decide, by decide⟩
theorem inv_loading13One : loading13One.Inv := ⟨by decide, by decide, by decide, by decide, by decide⟩
theorem inv_ready13 : ready13.Inv := ⟨by decide, by decide, by decide, by decide, by decide⟩
theorem inv_ready13One : ready13One.Inv := ⟨by decide, by decide, by decide, by decide, by decide⟩
theorem inv_full13 : full13.Inv := ⟨by decide, by decide, by decide, by decide, by decide⟩
theorem inv_loading23 : loading23.Inv := ⟨by decide, by decide, by decide, by decide, by decide⟩
theorem inv_ready23One : ready23One.Inv := ⟨by decide, by decide, by decide, by decide, by decide⟩
theorem inv_locked13 : locked13.Inv := ⟨by decide, by decide, by decide, by decide, by decide⟩

theorem witness_DecodeOfEncodeIsTheInstruction :
    (Instr.ldsym 255 0xFF).wellFormed 8 = true ∧ (Instr.rdm .ht 0xFFFF).wellFormed 1 = true := by decide

theorem witness_DecodedWordIsItsEncoding : decode 16 0x0308FFFF = .ok (.ldsym 8 0xFFFF) := by decide

theorem witness_DecodeAgreesWithOpcodeRows :
    decode 16 0x100803FF = .error .zeroField ∧ decode 16 0x10080300 = .ok (.mul 8 .ht) ∧
    ∃ row ∈ opcodeRows 16, 0x10080300#32 &&& row.mask = row.pattern := by decide

theorem witness_StepRunsTheDecodedInstruction :
    ∃ (s : State) (w : Word) (d : PortVec) (rest : List HostEvent) (i : Instr),
      s.inbox = .command w d :: rest ∧ decode s.caps.symw w = .ok i :=
  ⟨given (.command 0x11040000 0xFF) State.reset, _, _, _, .wt 4, rfl, by decide⟩

theorem witness_ReservedWordIsIllegalCommand :
    ∃ (s : State) (w : Word) (d : PortVec) (rest : List HostEvent) (why : Reserved),
      s.phase = .faulted ∧ s.inbox = .command w d :: rest ∧ decode s.caps.symw w = .error why :=
  ⟨given (.command 0x10080400 0) locked13, _, _, _, .selector, rfl, rfl, by decide⟩

theorem witness_StepWaitsWithoutACommand : State.reset.inbox = [] := rfl

theorem witness_ResetInputClearsTheBlock :
    ∃ (s : State) (rest : List HostEvent), s.phase = .faulted ∧ s.inbox = .resetInput :: rest :=
  ⟨given .resetInput locked13, _, rfl, rfl⟩

/-- A DECL that takes two draws, the reset input after the first. -/
theorem witness_ResetDuringACommandAbandonsIt :
    ∃ (s u : State) (w : Word) (d : PortVec) (taken : Nat) (rest : List HostEvent),
      s.inbox = .resetDuring w d taken :: rest ∧ taken = 1 ∧
      step { s with inbox := .command w d :: rest } = .next u ∧ u.drawCount = s.drawCount + 2 :=
  ⟨given (.resetDuring 0x31030000 3 1) (drawing [1, 0] ready13One), _, _, _, _, _, rfl, rfl, rfl, rfl⟩

/-- An error that takes no draw, and one at step 4 of a DECL that has taken one at step 2. -/
theorem witness_ErrorsArePrecise :
    (∃ t, step (given (.command 0x10020000 0) loading13) = .next t ∧ t.resp = some { status := 2 }) ∧
    (∃ t, step (given (.command 0x31030000 3) (drawing [1] ready13)) = .next t ∧ t.resp = some { status := 8 }) :=
  ⟨answers (by decide), answers (by decide)⟩

theorem witness_ErrorsComeFromTheirCommands :
    (∃ t, exec (.construct 0 3) State.reset = .next t ∧ t.resp = some { status := 1 }) ∧
    (∃ t, exec (.ldsym 2 0) loading13 = .next t ∧ t.resp = some { status := 2 }) ∧
    (∃ t, exec .sealCode State.reset = .next t ∧ t.resp = some { status := 4 }) ∧
    (∃ t, exec (.rdcd 0) loading13 = .next t ∧ t.resp = some { status := 5 }) ∧
    (∃ t, exec (.construct 3 20) State.reset = .next t ∧ t.resp = some { status := 6 }) ∧
    (∃ t, exec (.ldsym 1 0) (onDin 1 loading13One) = .next t ∧ t.resp = some { status := 7 }) ∧
    (∃ t, exec (.dec 3) (onDin 2 loading23) = .next t ∧ t.resp = some { status := 8 }) ∧
    (∃ t, exec (.wt 1) locked13 = .next t ∧ t.resp = some { status := 9 }) :=
  ⟨answers (by decide), answers (by decide), answers (by decide), answers (by decide), answers (by decide),
    answers (by decide), answers (by decide), answers (by decide)⟩

/-- One step for each way PHASE changes. -/
theorem witness_PhaseChangesOnlyAsListed :
    (∃ t, step (given .resetInput locked13) = .next t ∧ t.phase = .empty) ∧
    (∃ t, step (given (.resetDuring 0 0 0) ready13) = .next t ∧ t.phase = .empty) ∧
    (∃ t, step (given (.command 0x01000000 0) locked13) = .next t ∧ t.phase = .empty) ∧
    (∃ t, step (given (.command 0x02010300 0) State.reset) = .next t ∧ t.phase = .loading) ∧
    (∃ t, step (given (.command 0x04000000 0) loading13) = .next t ∧ t.phase = .ready) ∧
    (∃ t, step (given (.command 0x31040000 0) ready13) = .next t ∧ t.phase = .faulted) :=
  ⟨reaches (by decide), reaches (by decide), reaches (by decide), reaches (by decide), reaches (by decide),
    reaches (by decide)⟩

theorem witness_PhaseChangesOnlyAsListed_exec :
    (∃ t, exec .reset locked13 = .next t ∧ t.resp = some {}) ∧
    (∃ t, exec (.construct 1 2) State.reset = .next t ∧ t.resp = some {}) ∧
    (∃ t, exec .sealCode loading13 = .next t ∧ t.resp = some {}) ∧
    (∃ t, exec (.dec 4) ready13 = .next t ∧ t.resp = some { status := 2 }) :=
  ⟨answers (by decide), answers (by decide), answers (by decide), answers (by decide)⟩

theorem witness_AdmissionIsTheTable :
    admission (.wt 1) locked13.phase = .f ∧ admission (.decl 3) loading13.phase = .wp ∧
    admission (.rdreg 0) locked13.phase = .ok ∧
    (∃ t, exec (.rdreg 0) locked13 = .next t ∧ t.resp = some { val := 3 }) :=
  ⟨rfl, rfl, rfl, answers (by decide)⟩

/-- Lengths and indices one past the last that passes. -/
theorem witness_OperandChecksAreTheTable :
    (admission (.mul 3 .ht) loading13.phase = .ok ∧ dimensionFails loading13.kVal loading13.nVal (.mul 3 .ht) = true) ∧
    (admission (.decl 2) ready13.phase = .ok ∧ dimensionFails ready13.kVal ready13.nVal (.decl 2) = true) ∧
    (admission (.wt 33) State.reset.phase = .ok ∧ rangeFails State.reset (.wt 33) = true) ∧
    (admission (.rdst 4) loading13.phase = .ok ∧ rangeFails loading13 (.rdst 4) = true) ∧
    (admission (.rdsto 2) loading13.phase = .ok ∧ rangeFails loading13 (.rdsto 2) = true) ∧
    (admission (.rdreg 13) State.reset.phase = .ok ∧ rangeFails State.reset (.rdreg 13) = true) ∧
    (∃ t, exec (.mul 3 .ht) loading13 = .next t ∧ t.resp = some { status := 2 }) ∧
    (∃ t, exec (.rdst 4) loading13 = .next t ∧ t.resp = some { status := 5 }) ∧
    loading13.ParametersOk ∧ admission (.dec 0) loading13.phase = .ok ∧ admission (.wt 0) loading13.phase = .ok :=
  ⟨by decide, by decide, by decide, by decide, by decide, by decide, answers (by decide), answers (by decide),
    by decide, rfl, rfl⟩

/-- k = n, n one above N_MAX with n - k = R_MAX, and n - k one above R_MAX. -/
theorem witness_ConstructChecksItsParameters :
    State.reset.phase = .empty ∧ (5#8).toNat ≥ (5#8).toNat ∧
    (17#8 ≠ 0 ∧ (17#8).toNat < (33#8).toNat ∧ (33#8).toNat > State.reset.caps.nMax) ∧
    (3#8 ≠ 0 ∧ (3#8).toNat < (20#8).toNat ∧ (20#8).toNat - (3#8).toNat > State.reset.caps.rMax) := by decide

/-- The smallest code and the largest. -/
theorem witness_ConstructBuildsTheCode :
    State.reset.caps.wf ∧ State.reset.phase = .empty ∧
    (1#8 ≠ 0 ∧ (1#8).toNat < (2#8).toNat ∧ (2#8).toNat ≤ State.reset.caps.nMax ∧
      (2#8).toNat - (1#8).toNat ≤ State.reset.caps.rMax) ∧
    (16#8 ≠ 0 ∧ (16#8).toNat < (32#8).toNat ∧ (32#8).toNat ≤ State.reset.caps.nMax ∧
      (32#8).toNat - (16#8).toNat ≤ State.reset.caps.rMax) := by decide

theorem witness_LdsymAddsOneEntry_duplicate :
    (onDin 1 full13).Inv ∧ (onDin 1 full13).phase = .loading ∧ (1#8).toNat = (onDin 1 full13).kVal ∧
    ∃ e ∈ full13.cd, e.cw = vecmat (unpack full13.kVal (1#255).toNat) full13.g :=
  ⟨inv_full13, by decide, by decide, by decide⟩

theorem witness_LdsymAddsOneEntry_full :
    full13.Inv ∧ full13.phase = .loading ∧ (1#8).toNat = full13.kVal ∧
    (∀ e ∈ full13.cd, e.cw ≠ vecmat (unpack full13.kVal full13.din.toNat) full13.g) ∧
    full13.cdCount.toNat = full13.caps.aMax :=
  ⟨inv_full13, by decide, by decide, by decide, by decide⟩

theorem witness_LdsymAddsOneEntry_added :
    loading13One.Inv ∧ loading13One.phase = .loading ∧ (1#8).toNat = loading13One.kVal ∧
    (∀ e ∈ loading13One.cd, e.cw ≠ vecmat (unpack loading13One.kVal loading13One.din.toNat) loading13One.g) ∧
    loading13One.cdCount.toNat ≠ loading13One.caps.aMax :=
  ⟨inv_loading13One, by decide, by decide, by decide, by decide⟩

theorem witness_SealMakesReady : loading13One.phase = .loading := by decide

theorem witness_MulMultipliesByTheView :
    loading13.Inv ∧ (loading13.phase = .loading ∨ loading13.phase = .ready) ∧
    (1#8).toNat = rowsOf loading13.kVal loading13.nVal .g ∧ (3#8).toNat = rowsOf loading13.kVal loading13.nVal .h ∧
    (3#8).toNat = rowsOf loading13.kVal loading13.nVal .gt ∧ (2#8).toNat = rowsOf loading13.kVal loading13.nVal .ht :=
  ⟨inv_loading13, by decide, by decide, by decide, by decide, by decide⟩

theorem witness_WtCountsTheOnes :
    State.reset.phase ≠ .faulted ∧ (0#8).toNat ≤ State.reset.caps.nMax ∧ (32#8).toNat ≤ State.reset.caps.nMax := by decide

theorem witness_RdmReadsOneRow :
    ready13.Inv ∧ (ready13.phase = .loading ∨ ready13.phase = .ready) ∧
    (0#16).toNat < rowsOf ready13.kVal ready13.nVal .g ∧ (2#16).toNat < rowsOf ready13.kVal ready13.nVal .h ∧
    (2#16).toNat < rowsOf ready13.kVal ready13.nVal .gt ∧ (1#16).toNat < rowsOf ready13.kVal ready13.nVal .ht :=
  ⟨inv_ready13, by decide, by decide, by decide, by decide, by decide⟩

/-- A location with an entry, and the last location, a gap. -/
theorem witness_RdstReadsOneLocation :
    (loading13.phase = .loading ∨ loading13.phase = .ready) ∧
    ((2#16).toNat < 2 ^ (loading13.nVal - loading13.kVal) ∧ loading13.st.read (2#16).toNat = some (bits [0, 1, 0])) ∧
    ((3#16).toNat < 2 ^ (loading13.nVal - loading13.kVal) ∧ loading13.st.read (3#16).toNat = none) := by decide

theorem witness_RdstoReadsInInsertionOrder :
    loading13.Inv ∧ (loading13.phase = .loading ∨ loading13.phase = .ready) ∧ (1#16).toNat < loading13.stCount.toNat :=
  ⟨inv_loading13, by decide, by decide⟩

theorem witness_RdcdReadsOneEntry :
    ready13One.Inv ∧ (ready13One.phase = .loading ∨ ready13One.phase = .ready) ∧
    (0#16).toNat < ready13One.cdCount.toNat :=
  ⟨inv_ready13One, by decide, by decide⟩

theorem witness_RdregReadsTheMap : State.reset.caps.wf ∧ (13#16).toNat > 0x000C := by decide

theorem witness_DecCorrectsTheVector_codeword :
    (onDin 5 loading13).Inv ∧ (loading13.phase = .loading ∨ loading13.phase = .ready) ∧ (3#8).toNat = loading13.nVal ∧
    pack (vecmat (unpack 3 5) loading13.h) = 0 :=
  ⟨inv_loading13, by decide, by decide, by decide⟩

theorem witness_DecCorrectsTheVector_entry :
    (onDin 1 loading13).Inv ∧ (loading13.phase = .loading ∨ loading13.phase = .ready) ∧ (3#8).toNat = loading13.nVal ∧
    pack (vecmat (unpack 3 1) loading13.h) ≠ 0 ∧
    loading13.st.read (pack (vecmat (unpack 3 1) loading13.h)) = some (bits [1, 0, 0]) :=
  ⟨inv_loading13, by decide, by decide, by decide, by decide⟩

theorem witness_DecCorrectsTheVector_fallback :
    (onDin 3 ready13).Inv ∧ (ready13.phase = .loading ∨ ready13.phase = .ready) ∧ (3#8).toNat = ready13.nVal ∧
    pack (vecmat (unpack 3 3) ready13.h) ≠ 0 ∧ ready13.st.read (pack (vecmat (unpack 3 3) ready13.h)) = none ∧
    ready13.stCount ≠ 0 :=
  ⟨inv_ready13, by decide, by decide, by decide, by decide, by decide⟩

theorem witness_DecCorrectsTheVector_emptyTable :
    (onDin 2 loading23).Inv ∧ (loading23.phase = .loading ∨ loading23.phase = .ready) ∧ (3#8).toNat = loading23.nVal ∧
    pack (vecmat (unpack 3 2) loading23.h) ≠ 0 ∧
    loading23.st.read (pack (vecmat (unpack 3 2) loading23.h)) = none ∧ loading23.stCount = 0 :=
  ⟨inv_loading23, by decide, by decide, by decide, by decide, by decide⟩

/-- The all-zero syndrome and an entry, each with an entry of the dictionary that matches. -/
theorem witness_DeclResolvesAfterAnExactHit_match :
    (onDin 5 ready13One).Inv ∧ ready13One.phase = .ready ∧ (3#8).toNat = ready13One.nVal ∧
    pack (vecmat (unpack 3 5) ready13One.h) = 0 ∧
    (∃ entry ∈ ready13One.cd, entry.cw = vadd (List.replicate 3 false) (unpack 3 5)) ∧
    (onDin 1 ready13One).Inv ∧ pack (vecmat (unpack 3 1) ready13One.h) ≠ 0 ∧
    ready13One.st.read (pack (vecmat (unpack 3 1) ready13One.h)) = some (bits [1, 0, 0]) ∧
    (∃ entry ∈ ready13One.cd, entry.cw = vadd (bits [1, 0, 0]) (unpack 3 1)) :=
  ⟨inv_ready13One, by decide, by decide, by decide, by decide, inv_ready13One, by decide, by decide, by decide⟩

/-- A codeword that the dictionary does not hold, with entries and without. -/
theorem witness_DeclResolvesAfterAnExactHit_none :
    ready13One.Inv ∧ ready13One.phase = .ready ∧ (3#8).toNat = ready13One.nVal ∧
    pack (vecmat (unpack 3 ready13One.din.toNat) ready13One.h) = 0 ∧
    (∀ entry ∈ ready13One.cd, entry.cw ≠ vadd (List.replicate 3 false) (unpack 3 ready13One.din.toNat)) ∧
    ready13One.cdCount ≠ 0 ∧
    (onDin 5 ready13).Inv ∧ ready13.phase = .ready ∧ (3#8).toNat = ready13.nVal ∧
    pack (vecmat (unpack 3 5) ready13.h) = 0 ∧
    (∀ entry ∈ ready13.cd, entry.cw ≠ vadd (List.replicate 3 false) (unpack 3 5)) ∧ ready13.cdCount = 0 :=
  ⟨inv_ready13One, by decide, by decide, by decide, by decide, by decide, inv_ready13, by decide, by decide, by decide,
    by decide, by decide⟩

theorem witness_DeclAfterASyndromeFallback :
    ((onDin 3 ready13One).Inv ∧ ready13One.phase = .ready ∧ (3#8).toNat = ready13One.nVal ∧ pack (vecmat (unpack 3 3) ready13One.h) ≠ 0 ∧
      ready13One.st.read (pack (vecmat (unpack 3 3) ready13One.h)) = none ∧ ready13One.stCount ≠ 0 ∧
      ready13One.cdCount ≠ 0) ∧
    ((onDin 3 ready13).Inv ∧ ready13.phase = .ready ∧ (3#8).toNat = ready13.nVal ∧ pack (vecmat (unpack 3 3) ready13.h) ≠ 0 ∧
      ready13.st.read (pack (vecmat (unpack 3 3) ready13.h)) = none ∧ ready13.stCount ≠ 0 ∧ ready13.cdCount = 0) ∧
    ((onDin 2 ready23One).Inv ∧ ready23One.phase = .ready ∧ (3#8).toNat = ready23One.nVal ∧
      pack (vecmat (unpack 3 2) ready23One.h) ≠ 0 ∧
      ready23One.st.read (pack (vecmat (unpack 3 2) ready23One.h)) = none ∧ ready23One.stCount = 0) :=
  ⟨⟨inv_ready13One, by decide, by decide, by decide, by decide, by decide, by decide⟩,
    ⟨inv_ready13, by decide, by decide, by decide, by decide, by decide, by decide⟩,
    ⟨inv_ready23One, by decide, by decide, by decide, by decide, by decide⟩⟩

/-- With a table, and with an empty one. -/
theorem witness_RoundTripWithoutErrors :
    ((onDin 5 ready13One).Inv ∧ ready13One.phase = .ready ∧ (3#8).toNat = ready13One.nVal ∧
      ∃ entry ∈ ready13One.cd, unpack 3 5 = entry.cw) ∧
    ((onDin 4 ready23One).Inv ∧ ready23One.phase = .ready ∧ (3#8).toNat = ready23One.nVal ∧
      ∃ entry ∈ ready23One.cd, unpack 3 4 = entry.cw) :=
  ⟨⟨inv_ready13One, by decide, by decide, by decide⟩, ⟨inv_ready23One, by decide, by decide, by decide⟩⟩

/-- The all-zero syndrome, an entry, and a gap with an entry to fall back on. -/
theorem witness_CorrectedVectorIsACodewordOrNever :
    (loading13.Inv ∧ loading13.phase ≠ .empty ∧ (bits [1, 0, 1]).length = loading13.nVal) ∧
    pack (vecmat (bits [1, 0, 1]) loading13.h) = 0 ∧
    ((bits [0, 0, 1]).length = loading13.nVal ∧ pack (vecmat (bits [0, 0, 1]) loading13.h) ≠ 0 ∧
      loading13.st.read (pack (vecmat (bits [0, 0, 1]) loading13.h)) = some (bits [1, 0, 0])) ∧
    ((bits [0, 1, 1]).length = loading13.nVal ∧ pack (vecmat (bits [0, 1, 1]) loading13.h) ≠ 0 ∧
      loading13.st.read (pack (vecmat (bits [0, 1, 1]) loading13.h)) = none ∧
      loading13.st.read 2 = some (bits [0, 1, 0])) :=
  ⟨⟨inv_loading13, by decide, by decide⟩, by decide, by decide, by decide⟩

theorem witness_SingleFlipIsUndoneWhereRecorded :
    (onDin 7 loading13).Inv ∧ (loading13.phase = .loading ∨ loading13.phase = .ready) ∧ (3#8).toNat = loading13.nVal ∧
    (bits [1]).length = loading13.kVal ∧ 1 < loading13.nVal ∧
    loading13.h.rows[1]? = some (bits [1, 0]) ∧
    unpack 3 7 = vadd (vecmat (bits [1]) loading13.g) (unitVec 3 1) ∧
    loading13.st.read (pack (bits [1, 0])) = some (unitVec 3 1) :=
  ⟨inv_loading13, by decide, by decide, by decide, by decide, by decide, by decide, by decide⟩

/-- The last entry. -/
theorem witness_EveryEntryCanBeChosen :
    (onDin 3 loading13).Inv ∧ (loading13.phase = .loading ∨ loading13.phase = .ready) ∧ (3#8).toNat = loading13.nVal ∧
    pack (vecmat (unpack 3 3) loading13.h) ≠ 0 ∧ loading13.st.read (pack (vecmat (unpack 3 3) loading13.h)) = none ∧
    1 < loading13.stCount.toNat ∧ 1 < 2 ^ loading13.caps.rndw :=
  ⟨inv_loading13, by decide, by decide, by decide, by decide, by decide, by decide⟩

/-- Both fallbacks, and the two errors of a fallback: with a draw taken before it, and with none. -/
theorem witness_DrawsOnlyOnFallbacks :
    (∃ t, exec (.decl 3) (onDin 3 (drawing [1, 0] ready13One)) = .next t ∧
      t.resp = some { tags := 0x03, sym := 0x41, val := 1, dout := 1 }) ∧
    (∃ t, exec (.dec 3) (onDin 3 (drawing [0] loading13)) = .next t ∧
      t.resp = some { tags := 0x01, val := 1, dout := 7 }) ∧
    (∃ t, exec .nop (drawing [0] loading13) = .next t ∧ t.resp = some {}) ∧
    (∃ t, exec (.decl 3) (onDin 3 (drawing [1] ready13)) = .next t ∧ t.resp = some { status := 8 }) ∧
    (∃ t, exec (.dec 3) (onDin 2 (drawing [1] loading23)) = .next t ∧ t.resp = some { status := 8 }) :=
  ⟨answers (by decide), answers (by decide), answers (by decide), answers (by decide), answers (by decide)⟩

theorem witness_CountersCountOkDecodes :
    (∃ t, exec (.decl 3) (onDin 3 (drawing [1, 0] { ready13One with decCount := 0xFFFFFFFF })) = .next t ∧
      t.resp = some { tags := 0x03, sym := 0x41, val := 1, dout := 1 }) ∧
    (∃ t, exec (.dec 4) loading13 = .next t ∧ t.resp = some { status := 2 }) ∧
    (∃ t, exec (.wt 0) loading13 = .next t ∧ t.resp = some {}) :=
  ⟨answers (by decide), answers (by decide), answers (by decide)⟩

theorem witness_OkKeepsTheErrorRecord :
    Instr.rdreg 1 ≠ .reset ∧ ∃ t, exec (.rdreg 1) locked13 = .next t ∧ t.resp = some { val := 4 } :=
  ⟨by decide, answers (by decide)⟩

theorem witness_FrameOfReaders :
    isReader (.rdst 2) = true ∧
    (∃ t, exec (.rdst 2) loading13 = .next t ∧ t.resp = some { tags := 0x08, val := 1, dout := 2 }) ∧
    isReader (.mul 2 .g) = true ∧ (∃ t, exec (.mul 2 .g) loading13 = .next t ∧ t.resp = some { status := 2 }) :=
  ⟨rfl, answers (by decide), rfl, answers (by decide)⟩

theorem witness_FrameOfDecodes :
    (∃ t, exec (.decl 3) (onDin 5 ready13One) = .next t ∧ t.resp = some { tags := 0x04, sym := 0x41, dout := 5 }) ∧
    (∃ t, exec (.dec 3) (onDin 1 loading13) = .next t ∧ t.resp = some { val := 1, dout := 5 }) :=
  ⟨answers (by decide), answers (by decide)⟩

theorem witness_FrameOfConstruction :
    (∃ t, exec (.construct 1 3) State.reset = .next t ∧ t.phase = .loading) ∧
    (∃ t, exec (.construct 1 3) ready13 = .next t ∧ t.phase = .ready) ∧
    (∃ t, exec (.ldsym 1 0x42) loading13One = .next t ∧ t.phase = .loading) ∧
    (∃ t, exec .sealCode loading13 = .next t ∧ t.phase = .ready) ∧
    (∃ t, exec .reset locked13 = .next t ∧ t.phase = .empty) :=
  ⟨reaches (by decide), reaches (by decide), reaches (by decide), reaches (by decide), reaches (by decide)⟩

/-- An LDSYM that changes the dictionary. -/
theorem witness_ArtifactsAreReadOnlyOnceBuilt :
    ∃ t, loading13.phase ≠ .empty ∧ Instr.ldsym 1 0x42 ≠ .reset ∧ exec (.ldsym 1 0x42) loading13 = .next t ∧
      t.cdCount ≠ loading13.cdCount :=
  ⟨_, by decide, by decide, rfl, by decide⟩

theorem witness_ReadersAreIdempotent :
    isReader (.rdm .g 0) = true ∧ ∃ t, exec (.rdm .g 0) loading13 = .next t ∧ t.resp = some { dout := 5 } :=
  ⟨rfl, answers (by decide)⟩

/-- din and d differ from bit 2 on, just above the length of the operand. -/
theorem witness_DinBeyondLengthIsIgnored :
    (∀ b, b < dinLength (.mul 2 .ht) → (0xF#255).getLsbD b = (0x3#255).getLsbD b) ∧
    ∃ t, exec (.mul 2 .ht) (onDin 0xF loading13) = .next t ∧ t.resp = some { dout := 7 } :=
  ⟨by decide, answers (by decide)⟩

theorem witness_ResponsesFitTheirPorts :
    loading13.Inv ∧ (Instr.ldsym 1 0xFF).wellFormed loading13.caps.symw = true ∧
    (∃ t, exec (.ldsym 1 0xFF) (onDin 1 loading13) = .next t ∧ t.resp = some { sym := 0xFF, dout := 5 }) ∧
    (∃ t, exec (.wt 32) (onDin 0xFFFFFFFF loading13) = .next t ∧ t.resp = some { val := 32 }) :=
  ⟨inv_loading13, by decide, answers (by decide), answers (by decide)⟩

/-- More rows than columns in A, and more columns than rows; the last indices. -/
theorem witness_GeneratorIsTheDocumentsProcedure :
    (1 < 4 ∧ 0 < 1 ∧ 2 < 4 - 1) ∧ ((8 : Nat) < 12 ∧ (7 : Nat) < 8 ∧ (3 : Nat) < 12 - 8) := by decide

theorem witness_ParityCheckIsAOverIdentity :
    ((1 : Nat) < 3 ∧ (0 : Nat) < 1 ∧ (1 : Nat) < 3 - 1) ∧ ((1 : Nat) ≤ 2 ∧ (2 : Nat) < 3 ∧ (1 : Nat) < 3 - 1) := by decide

theorem witness_GeneratorTimesParityCheckIsZero : (1 : Nat) < 2 ∧ (bits [1]).length = 1 := by decide

/-- A codeword, a vector that is none, and the last element. -/
theorem witness_ZeroSyndromeExactlyForCodewords :
    (1 : Nat) < 3 ∧ (bits [1, 0, 1]).length = 3 ∧ vecmat (bits [1, 0, 1]) loading13.h = bits [0, 0] ∧
    (bits [0, 1, 1]).length = 3 ∧ vecmat (bits [0, 1, 1]) loading13.h ≠ bits [0, 0] ∧ (2 : Nat) < 3 := by decide

theorem witness_VecmatIsLinear :
    hasShape loading13.h 3 2 = true ∧ (2 : Nat) < 3 ∧ (bits [1, 0, 1]).length = 3 ∧ (bits [0, 1, 1]).length = 3 := by decide

/-- t below k and t at or above k; the value is that of 10111 = 1 * (1,5), 95_test_vectors. -/
theorem witness_CodewordInClosedForm :
    (1 : Nat) < 5 ∧ (bits [1]).length = 1 ∧ (0 : Nat) < 1 ∧ ((0 : Nat) < 5 - 1 ∧ (0 : Nat) < 1) ∧
    ((3 : Nat) < 5 - 1 ∧ (1 : Nat) ≤ 3) ∧ vecmat (bits [1]) (buildGenerator 1 5) = bits [1, 0, 1, 1, 1] := by decide

theorem witness_WeightLaws : (2 : Nat) < 3 ∧ (bits [1, 0, 1]).length = (bits [0, 1, 1]).length := by decide

theorem witness_PackAndUnpackAreInverse : (2 : Nat) < (bits [0, 1, 1]).length ∧ pack (bits [0, 1, 1]) = 3 := by decide

theorem witness_TransposeSwapsIndices :
    0 < 3 ∧ hasShape loading13.h 3 2 = true ∧ (2 : Nat) < 3 ∧ (1 : Nat) < 2 := by decide

/-- An H, an entry, a candidate with a syndrome that is not all-zero, and the two entries in order. -/
theorem witness_TableHoldsTheFirstCandidates :
    loading13.h.cols = 3 - 1 ∧
    (buildSyndromeTable enumCandidate loading13.h 3 1).st.read 2 = some (bits [0, 1, 0]) ∧
    ((2 : Nat) < 2 ^ (3 - 1) - 1 ∧ pack (vecmat (enumCandidate 1 3 2) loading13.h) ≠ 0) ∧
    ((0 : Nat) < 1 ∧
      (buildSyndromeTable enumCandidate loading13.h 3 1).ord[0]? =
        some (pack (vecmat (enumCandidate 1 3 0) loading13.h)) ∧
      (buildSyndromeTable enumCandidate loading13.h 3 1).ord[1]? =
        some (pack (vecmat (enumCandidate 1 3 1) loading13.h)) ∧
      (∀ i', i' < 0 →
        pack (vecmat (enumCandidate 1 3 i') loading13.h) ≠ pack (vecmat (enumCandidate 1 3 0) loading13.h)) ∧
      ∀ j', j' < 1 →
        pack (vecmat (enumCandidate 1 3 j') loading13.h) ≠ pack (vecmat (enumCandidate 1 3 1) loading13.h)) := by decide

/-- The last: a value that the enumeration does not list, and one that it does. -/
theorem witness_CandidatesStartWithSingleBits :
    ((2 : Nat) < 3 ∧ (0 : Nat) < 3 ∧ 9 / 3 ≥ 3 ∧ (0 : Nat) < 1) ∧
    (∀ c ∈ (enumerating [⟨1, 3, 0, bits [0, 0, 1]⟩] State.reset).enum, ¬(c.k = 1 ∧ c.n = 3 ∧ c.i = 1)) ∧
    (bits [0, 0, 1]).length = 3 ∧
    (enumerating [⟨1, 3, 0, bits [0, 0, 1]⟩] State.reset).enum = ⟨1, 3, 0, bits [0, 0, 1]⟩ :: [] := by decide

theorem witness_StepKeepsTheInvariant :
    (given .resetInput locked13).Inv ∧ (given (.resetDuring 0x31030000 3 1) ready13One).Inv ∧
    (given (.command 0x02010300 0) State.reset).Inv ∧ State.reset.Inv ∧
    ((enumerating [⟨1, 3, 0, bits [0, 0, 1]⟩] State.reset).constructed 1 3).Inv :=
  ⟨inv_locked13, inv_ready13One, inv_reset, inv_reset, by decide, by decide, by decide, by decide, by decide⟩

theorem witness_StepKeepsTheRomCanonical :
    State.reset.st.wf ∧ ∃ t, step (given (.command 0x02010300 0) State.reset) = .next t ∧ t.resp = some { val := 2 } :=
  ⟨by decide, answers (by decide)⟩

end Sys2Proof.Tests
end

/-! Packing and unpacking (spec/00_scope.md R11): `pack` and `unpack` both recurse on the LAST element, which is bit 0, so
every law here is an induction that takes elements off the end (`pack_append_singleton`, `unpack_succ`). -/

namespace Sys2Proof.Machine

@[simp] theorem unpack_zero (x : Nat) : unpack 0 x = [] := rfl

theorem getElem?_unpack {len i : Nat} (x : Nat) (hi : i < len) :
    (unpack len x)[i]? = some (x.testBit (len - 1 - i)) := by
  simp [unpack, hi]

/-- The sum of R11: element i weighs 2^(L-1-i). -/
def positionalSum (v : Bits) : Nat :=
  ((List.range v.length).map fun i => (v.getD i false).toNat * 2 ^ (v.length - 1 - i)).sum

/-- One more element at the end doubles the weight of every element before it. -/
theorem positionalSum_append_singleton (v : Bits) (b : Bool) :
    positionalSum (v ++ [b]) = 2 * positionalSum v + b.toNat := by
  have doubled : ∀ i ∈ List.range v.length,
      ((v ++ [b]).getD i false).toNat * 2 ^ (v.length - i) =
        2 * ((v.getD i false).toNat * 2 ^ (v.length - 1 - i)) := by
    intro i hi
    have hi : i < v.length := List.mem_range.mp hi
    rw [List.getD_append _ _ _ _ hi, show v.length - i = v.length - 1 - i + 1 by omega, Nat.pow_succ']
    exact Nat.mul_left_comm ..
  simp only [positionalSum, List.length_append, List.length_singleton, Nat.add_sub_cancel, List.range_succ,
    List.map_append, List.sum_append, List.map_congr_left doubled, List.sum_map_mul_left]
  simp

theorem pack_eq_positionalSum (v : Bits) : pack v = positionalSum v := by
  induction v using List.reverseRecOn with
  | nil => rfl
  | append_singleton v b ih => rw [pack_append_singleton, positionalSum_append_singleton, ih]

theorem pack_lt_two_pow_length (v : Bits) : pack v < 2 ^ v.length := by
  induction v using List.reverseRecOn with
  | nil => decide
  | append_singleton v b ih =>
    have := b.toNat_lt
    rw [pack_append_singleton, List.length_append, List.length_singleton, Nat.pow_succ]
    omega

theorem unpack_length_pack (v : Bits) : unpack v.length (pack v) = v := by
  induction v using List.reverseRecOn with
  | nil => rfl
  | append_singleton v b ih =>
    have high : (2 * pack v + b.toNat) / 2 = pack v := by have := b.toNat_lt; omega
    have low : (2 * pack v + b.toNat).testBit 0 = b := by cases b <;> simp
    rw [pack_append_singleton, List.length_append, List.length_singleton, unpack_succ, high, low, ih]

theorem pack_unpack (len x : Nat) : pack (unpack len x) = x % 2 ^ len := by
  induction len generalizing x with
  | zero => simp [pack, Nat.mod_one]
  | succ len ih =>
    have low : (x.testBit 0).toNat = x % 2 := by rw [Nat.toNat_testBit, Nat.pow_zero, Nat.div_one]
    rw [unpack_succ, pack_append_singleton, ih, low, Nat.pow_succ', Nat.mod_mul, Nat.add_comm]

/-- Settles O54, from one lemma per clause of R11. -/
theorem packAndUnpackAreInverse : Obligations.PackAndUnpackAreInverse :=
  ⟨pack_eq_positionalSum, fun _ x _ hi => getElem?_unpack x hi,
    fun v => ⟨unpack_length_pack v, pack_lt_two_pow_length v⟩, pack_unpack⟩

end Sys2Proof.Machine

/-! What a command writes (spec/10_state.md R22, R34, R35; spec/20_memory.md R68), and what a step can do: every statement
about all commands is a case split over the six kinds of write of a command that ends OK, beside the one of an error. -/

namespace Sys2Proof.Machine

/-- The state that a command which ends OK leaves, by the kind of its write. -/
inductive OkWrite : Instr → State → State → Prop where
  /-- 20_memory R68: no side effect. -/
  | reader {i : Instr} {s : State} (r : Response) (reads : isReader i = true) : OkWrite i s (s.answered r)
  | reset {s : State} (r : Response) : OkWrite .reset s (s.cleared.answered r)
  /-- 45_construct_and_access R285: from EMPTY, with the bounds of 10_state R24. -/
  | construct {s : State} {k n : BitVec 8} (r : Response) (phase : s.phase = .empty) (pos : k ≠ 0)
      (lt : k.toNat < n.toNat) (leN : n.toNat ≤ s.caps.nMax) (leR : n.toNat - k.toNat ≤ s.caps.rMax) :
      OkWrite (.construct k n) s ((s.constructed k n).answered r)
  /-- R292: in LOADING, a codeword that is new to a dictionary with room for it. -/
  | ldsym {s : State} {len : BitVec 8} {sym : Symbol} (r : Response) (phase : s.phase = .loading)
      (stored : s.cd.length = s.cdCount.toNat) (fresh : ∀ e ∈ s.cd, e.cw ≠ vecmat (s.operand s.kVal) s.g)
      (room : s.cdCount.toNat ≠ s.caps.aMax) :
      OkWrite (.ldsym len sym) s ((s.withEntry s.cd (vecmat (s.operand s.kVal) s.g) sym).answered r)
  | sealCode {s : State} (r : Response) (phase : s.phase = .loading) : OkWrite .sealCode s (s.sealedOff.answered r)
  /-- 44_decoder R244, R250, R255: the counters, and one draw per fallback. -/
  | decode {i : Instr} {s : State} (r : Response) (fb1 fb2 zs : Bool) (built : inBuilt s.phase = true)
      (decodes : (∃ len, i = .dec len ∧ fb2 = false) ∨ ∃ len, i = .decl len)
      (tags : r.tags = tagsByte fb1 fb2 zs false) :
      OkWrite i s (((takeDraws (fb1.toNat + fb2.toNat) s).counted fb1 fb2).answered r)

theorem State.genMatrix_eq_some {s : State} {g : Matrix} (h : s.genMatrix = some g) : g = s.g := by
  unfold State.genMatrix at h
  split at h <;> cases h
  rfl

theorem State.dictionary_eq_some {s : State} {cd : List Entry} (h : s.dictionary = some cd) :
    cd = s.cd ∧ s.cd.length = s.cdCount.toNat := by
  unfold State.dictionary at h
  split at h <;> cases h
  next hlen => exact ⟨rfl, hlen⟩

/-- Steps 1 and 2 of a decode take one draw where they fall back, and none elsewhere (44_decoder R255). -/
theorem locateError_draws {y : Bits} {s t : State} {c : Choice} (h : locateError y s = .ok (c, t)) :
    t = takeDraws c.fb1.toNat s := by
  rcases locateError_state h with ⟨hfb, rfl⟩ | ⟨hfb, -, rfl⟩ <;> rw [hfb] <;> rfl

/-- So does step 4. -/
theorem resolveSymbol_draws {x : Bits} {s t : State} {q : Symbol} {fb2 : Bool}
    (h : resolveSymbol x s = .ok ((q, fb2), t)) : t = takeDraws fb2.toNat s := by
  obtain ⟨-, -, ⟨rfl, rfl, -⟩ | ⟨rfl, rfl, -⟩⟩ := resolveSymbol_ok h <;> rfl

theorem takeDraws_takeDraws (a b : Nat) (s : State) : takeDraws b (takeDraws a s) = takeDraws (a + b) s := by
  simp [takeDraws_eq, Nat.add_assoc]

theorem OkEffect.write {i : Instr} {s t : State} (h : OkEffect i s t) : OkWrite i s t := by
  cases i with
  | nop => subst h; exact .reader _ rfl
  | reset => subst h; exact .reset _
  | construct k n => obtain ⟨hp, hk, hkn, hn, hr, rfl⟩ := h; exact .construct _ hp hk hkn hn hr
  | ldsym len sym =>
    obtain ⟨hp, -, g, cd, hg, hcd, fresh, room, rfl⟩ := h
    obtain rfl := State.genMatrix_eq_some hg
    obtain ⟨rfl, hlen⟩ := State.dictionary_eq_some hcd
    exact .ldsym _ hp hlen fresh room
  | sealCode => obtain ⟨hp, rfl⟩ := h; exact .sealCode _ hp
  | mul len sel => obtain ⟨-, -, _, -, rfl⟩ := h; exact .reader _ rfl
  | wt len => obtain ⟨-, -, rfl⟩ := h; exact .reader _ rfl
  | rdm sel idx => obtain ⟨-, -, _, _, -, -, rfl⟩ := h; exact .reader _ rfl
  | rdst idx => obtain ⟨-, -, ⟨_, -, rfl⟩ | ⟨-, rfl⟩⟩ := h <;> exact .reader _ rfl
  | rdsto idx => obtain ⟨-, -, _, _, -, -, rfl⟩ := h; exact .reader _ rfl
  | rdcd idx => obtain ⟨-, -, _, _, -, -, rfl⟩ := h; exact .reader _ rfl
  | rdreg idx => obtain ⟨_, -, rfl⟩ := h; exact .reader _ rfl
  | dec len =>
    obtain ⟨hp, -, c, u, hc, rfl⟩ := h
    obtain rfl := locateError_draws hc
    exact .decode _ c.fb1 false c.zs hp (.inl ⟨len, rfl, rfl⟩) rfl
  | decl len =>
    obtain ⟨hp, -, c, u, q, fb2, u', hc, hq, rfl⟩ := h
    obtain rfl := locateError_draws hc
    obtain rfl := resolveSymbol_draws hq
    rw [takeDraws_takeDraws]
    exact .decode _ c.fb1 fb2 c.zs (inBuilt_iff.mpr (.inr hp)) (.inr ⟨len, rfl⟩) rfl

/-- Where an error is raised: on the state before, or on that state with one draw taken (60_exceptions R340). -/
theorem ErrorEffect.write {i : Instr} {s t : State} (h : ErrorEffect i s t) :
    ∃ e u, t = u.afterError e ∧ ErrorCause i s e ∧ (u = s ∨ u = s.afterDraw) := by
  obtain ⟨e, u, ht, hc, hu⟩ := h
  exact ⟨e, u, ht, hc, hu.imp_right And.left⟩

/-- A step runs the event that the host presents. -/
theorem step_of_inbox {s : State} {e : HostEvent} {rest : List HostEvent} (h : s.inbox = e :: rest) :
    step s = runEvent e (s.withInbox rest) := by
  simp only [step, stepEvent, h]

/-- All that a step can do when it answers a next state: wait, reset, or run the command that is presented. -/
theorem step_next_cases {s t : State} (h : step s = .next t) :
    (s.inbox = [] ∧ t = s.idle) ∨
    (∃ u : State, t = u.cleared ∧ u.caps = s.caps ∧ ∃ rest,
      s.inbox = .resetInput :: rest ∨ ∃ w d taken, s.inbox = .resetDuring w d taken :: rest) ∨
    ∃ w d rest, s.inbox = .command w d :: rest ∧
      ((∃ i, decode s.caps.symw w = .ok i ∧ exec i ((s.withInbox rest).sampled d) = .next t) ∨
        t = ((s.withInbox rest).sampled d).afterError .illegalCommand) := by
  cases hin : s.inbox with
  | nil =>
    simp only [step, stepEvent, hin] at h
    cases h
    exact .inl ⟨rfl, rfl⟩
  | cons e rest =>
    rw [step_of_inbox hin] at h
    cases e with
    | resetInput => cases h; exact .inr (.inl ⟨_, rfl, rfl, rest, .inl rfl⟩)
    | resetDuring w d taken =>
      cases h
      exact .inr (.inl ⟨_, rfl, by rw [takeDraws_eq]; rfl, rest, .inr ⟨w, d, taken, rfl⟩⟩)
    | command w d =>
      refine .inr (.inr ⟨w, d, rest, rfl, ?_⟩)
      simp only [runEvent, runCommand, State.withInbox_caps] at h
      split at h
      · next i hi => exact .inl ⟨i, hi, h⟩
      · exact .inr (raise_next_iff.mp h)

end Sys2Proof.Machine

/-! PHASE and the table of admissions (spec/10_state.md R22, R23). -/

namespace Sys2Proof.Machine

/-- A command is admitted in every phase, or its meaning stands behind the two checks, and what these let pass is its row
of the table. -/
theorem exec_eq_gate (i : Instr) (s : State) :
    (∀ p, admission i p = .ok) ∨
    ∃ allowed run, exec i s = gate allowed s run ∧
      ∀ p, admission i p = if p = .faulted then .f else if allowed p then .ok else .wp := by
  cases i with
  | nop | reset | rdreg _ => exact .inl fun p => by cases p <;> rfl
  | construct _ _ => exact .inr ⟨inEmpty, _, rfl, fun p => by cases p <;> rfl⟩
  | ldsym _ _ | sealCode => exact .inr ⟨inLoading, _, rfl, fun p => by cases p <;> rfl⟩
  | wt _ => exact .inr ⟨inUnfaulted, _, rfl, fun p => by cases p <;> rfl⟩
  | decl _ => exact .inr ⟨inReady, _, rfl, fun p => by cases p <;> rfl⟩
  | mul _ _ | rdm _ _ | rdst _ | rdsto _ | rdcd _ | dec _ =>
    exact .inr ⟨inBuilt, _, rfl, fun p => by cases p <;> rfl⟩

theorem exec_of_admission_f {i : Instr} {s : State} (h : admission i s.phase = .f) :
    exec i s = raise .faulted s := by
  rcases exec_eq_gate i s with hok | ⟨allowed, run, he, ht⟩
  · rw [hok] at h; cases h
  · rw [ht] at h
    split at h
    · next hp => rw [he, gate_faulted hp]
    · split at h <;> cases h

theorem exec_of_admission_wp {i : Instr} {s : State} (h : admission i s.phase = .wp) :
    exec i s = raise .wrongPhase s := by
  rcases exec_eq_gate i s with hok | ⟨allowed, run, he, ht⟩
  · rw [hok] at h; cases h
  · rw [ht] at h
    split at h
    · cases h
    · next hp =>
      split at h
      · cases h
      · next ha => rw [he, gate_wrongPhase hp (by simpa using ha)]

theorem ErrorCode.code_injective {e e' : ErrorCode} (h : e.code = e'.code) : e = e' := by
  cases e <;> cases e' <;> simp_all [ErrorCode.code]

/-- A command whose answer is an error's code ended with that error, for its cause. -/
theorem errorCause_of_status {i : Instr} {s t : State} {r : Response} {e : ErrorCode} (h : exec i s = .next t)
    (hr : t.resp = some r) (hst : r.status = e.code) :
    r = errorResponse e ∧ ErrorCause i s e ∧ ∃ u : State, t = u.afterError e := by
  obtain ⟨e', u, rfl, hc, -⟩ := exec_next_error h hr (hst ▸ e.code_ne_zero)
  cases hr
  obtain rfl := ErrorCode.code_injective hst
  exact ⟨rfl, hc, u, rfl⟩

/-- Settles O16, by the two checks in front of each meaning. -/
theorem admissionIsTheTable : Obligations.AdmissionIsTheTable := by
  refine fun i s => ⟨exec_of_admission_f, exec_of_admission_wp, fun hok t r h hr => ⟨fun hst => ?_, fun hst => ?_⟩⟩
  · obtain ⟨-, (hc : admission i s.phase = .f), -⟩ := errorCause_of_status (e := .faulted) h hr hst
    rw [hok] at hc; cases hc
  · obtain ⟨-, (hc : admission i s.phase = .wp), -⟩ := errorCause_of_status (e := .wrongPhase) h hr hst
    rw [hok] at hc; cases hc

/-- Only commands that need a code compare a length with it, so a DimensionMismatch ends a command in LOADING or READY
(60_exceptions R343). -/
theorem ErrorCause.built_of_dimensionMismatch {i : Instr} {s : State} (h : ErrorCause i s .dimensionMismatch) :
    s.phase = .loading ∨ s.phase = .ready := by
  obtain ⟨hok, hdim⟩ := h
  cases i with
  | mul _ _ | ldsym _ _ | dec _ | decl _ =>
    revert hok
    cases s.phase <;> simp [admission, admissionRow]
  | nop | reset | construct _ _ | sealCode | wt _ | rdm _ _ | rdst _ | rdsto _ | rdcd _ | rdreg _ => cases hdim

/-- What a command that ends with an error does to PHASE (10_state R22). -/
theorem ErrorEffect.phase {i : Instr} {s t : State} (h : ErrorEffect i s t) :
    t.phase = s.phase ∨
    ((s.phase = .loading ∨ s.phase = .ready) ∧ t.phase = .faulted ∧ t.resp = some (errorResponse .dimensionMismatch)) := by
  obtain ⟨e, u, rfl, hc, hu⟩ := h.write
  have hphase : u.phase = s.phase := by rcases hu with rfl | rfl <;> rfl
  by_cases he : e = .dimensionMismatch
  · subst he
    exact .inr ⟨hc.built_of_dimensionMismatch, rfl, rfl⟩
  · left; simp [he, hphase]

/-- A step that changes PHASE is a reset or runs a command that changes it. -/
theorem step_phase_change {s t : State} (h : step s = .next t) (hne : t.phase ≠ s.phase) :
    (t.phase = .empty ∧ ∃ rest, s.inbox = .resetInput :: rest ∨ ∃ w d taken, s.inbox = .resetDuring w d taken :: rest) ∨
    ∃ w d rest i, s.inbox = .command w d :: rest ∧ decode s.caps.symw w = .ok i ∧
      exec i ((s.withInbox rest).sampled d) = .next t := by
  rcases step_next_cases h with ⟨-, rfl⟩ | ⟨u, rfl, -, rest, hin⟩ | ⟨w, d, rest, hin, ⟨i, hi, hex⟩ | rfl⟩
  · exact absurd rfl hne
  · exact .inl ⟨rfl, rest, hin⟩
  · exact .inr ⟨w, d, rest, i, hin, hi, hex⟩
  · exact absurd rfl hne

/-- A command that changes PHASE is one of those that 10_state R22 lists. -/
theorem exec_phase_change {i : Instr} {s t : State} (h : exec i s = .next t) (hne : t.phase ≠ s.phase) :
    ∃ r, t.resp = some r ∧
      ((i = .reset ∧ t.phase = .empty) ∨
        (s.phase = .empty ∧ t.phase = .loading ∧ r.status = 0 ∧ ∃ k n, i = .construct k n) ∨
        (s.phase = .loading ∧ t.phase = .ready ∧ r.status = 0 ∧ i = .sealCode) ∨
        ((s.phase = .loading ∨ s.phase = .ready) ∧ t.phase = .faulted ∧ r = { status := 2 })) := by
  rcases exec_next_cases h with hok | herr
  · obtain ⟨r, hr⟩ := hok.responds
    have h0 := hok.status hr
    refine ⟨r, hr, ?_⟩
    rcases hok.phase with heq | hreset | ⟨hs, ht, hi⟩ | ⟨hs, ht, hi⟩
    · exact absurd heq hne
    · exact .inl hreset
    · exact .inr (.inl ⟨hs, ht, h0, hi⟩)
    · exact .inr (.inr (.inl ⟨hs, ht, h0, hi⟩))
  · rcases herr.phase with heq | ⟨hs, ht, hr⟩
    · exact absurd heq hne
    · exact ⟨_, hr, .inr (.inr (.inr ⟨hs, ht, rfl⟩))⟩

/-- Settles O15: each change by the inversion of a step, each listed cause by its own effect. -/
theorem phaseChangesOnlyAsListed : Obligations.PhaseChangesOnlyAsListed := by
  refine ⟨fun s t h hne => ?_, fun i s t r h hr => ⟨?_, ?_, fun hst => ?_⟩, fun s => ⟨_, rfl, rfl⟩,
    fun s rest hin => ⟨_, step_of_inbox hin, rfl⟩, fun s w d taken rest hin => ⟨_, step_of_inbox hin, rfl⟩⟩
  · rcases step_phase_change h hne with ⟨ht, rest, hin | ⟨w, d, taken, hin⟩⟩ | ⟨w, d, rest, i, hin, hi, hex⟩
    · exact .inl ⟨ht, rest, hin⟩
    · exact .inr (.inl ⟨ht, w, d, taken, rest, hin⟩)
    · obtain ⟨r, hr, hcase⟩ := exec_phase_change hex hne
      exact .inr (.inr ⟨w, d, rest, i, r, hin, hi, hr, hcase⟩)
  · rintro k n rfl h0
    obtain ⟨hs, -, -, -, -, rfl⟩ := exec_next_ok h hr h0
    exact ⟨hs, rfl⟩
  · rintro rfl h0
    obtain ⟨hs, rfl⟩ := exec_next_ok h hr h0
    exact ⟨hs, rfl⟩
  · obtain ⟨-, hc, u, rfl⟩ := errorCause_of_status (e := .dimensionMismatch) h hr hst
    exact ⟨hc.built_of_dimensionMismatch, rfl⟩

end Sys2Proof.Machine

/-! What a command leaves unchanged: the code that is built, the ROM's canonical form, the error record and the counters
(spec/10_state.md R25 to R35). -/

namespace Sys2Proof.Machine

/-- The code that is built, the capacities, ENUM and the host's side are the same in two states. -/
structure State.SameCode (s t : State) : Prop where
  k : t.k = s.k := by rfl
  n : t.n = s.n := by rfl
  g : t.g = s.g := by rfl
  h : t.h = s.h := by rfl
  st : t.st = s.st := by rfl
  ord : t.ord = s.ord := by rfl
  stCount : t.stCount = s.stCount := by rfl
  candCount : t.candCount = s.candCount := by rfl
  caps : t.caps = s.caps := by rfl
  enum : t.enum = s.enum := by rfl
  inbox : t.inbox = s.inbox := by rfl
  din : t.din = s.din := by rfl

/-- RESET and CONSTRUCT alone write the code. -/
theorem OkWrite.sameCode {i : Instr} {s t : State} (h : OkWrite i s t) :
    s.SameCode t ∨ i = .reset ∨ (s.phase = .empty ∧ ∃ k n, i = .construct k n) := by
  cases h with
  | reader r reads => exact .inl {}
  | reset r => exact .inr (.inl rfl)
  | construct r phase => exact .inr (.inr ⟨phase, _, _, rfl⟩)
  | ldsym r => exact .inl {}
  | sealCode r => exact .inl {}
  | decode r fb1 fb2 zs => rw [takeDraws_eq]; exact .inl {}

/-- LDSYM alone writes the dictionary of a code that is built. -/
theorem OkWrite.sameDictionary {i : Instr} {s t : State} (h : OkWrite i s t) :
    (t.cd = s.cd ∧ t.cdCount = s.cdCount) ∨ i = .reset ∨ s.phase = .empty ∨
      (s.phase = .loading ∧ ∃ len sym, i = .ldsym len sym) := by
  cases h with
  | reader r reads => exact .inl ⟨rfl, rfl⟩
  | reset r => exact .inr (.inl rfl)
  | construct r phase => exact .inr (.inr (.inl phase))
  | ldsym r phase => exact .inr (.inr (.inr ⟨phase, _, _, rfl⟩))
  | sealCode r => exact .inl ⟨rfl, rfl⟩
  | decode r fb1 fb2 zs => rw [takeDraws_eq]; exact .inl ⟨rfl, rfl⟩

/-- A command that ends with an error writes neither, and counts nothing. -/
theorem ErrorEffect.frame {i : Instr} {s t : State} (h : ErrorEffect i s t) :
    s.SameCode t ∧ (t.cd = s.cd ∧ t.cdCount = s.cdCount) ∧
      t.decCount = s.decCount ∧ t.fb1Count = s.fb1Count ∧ t.fb2Count = s.fb2Count := by
  obtain ⟨e, u, rfl, -, rfl | rfl⟩ := h.write <;> exact ⟨{}, ⟨rfl, rfl⟩, rfl, rfl, rfl⟩

theorem exec_sameCode {i : Instr} {s t : State} (hp : s.phase ≠ .empty) (hi : i ≠ .reset) (h : exec i s = .next t) :
    s.SameCode t := by
  rcases exec_next_cases h with hok | herr
  · rcases hok.write.sameCode with hsame | hreset | ⟨hempty, -⟩
    · exact hsame
    · exact absurd hreset hi
    · exact absurd hempty hp
  · obtain ⟨hsame, -⟩ := herr.frame
    exact hsame

theorem exec_sameDictionary {i : Instr} {s t : State} (hp : s.phase ≠ .empty) (hi : i ≠ .reset)
    (h : exec i s = .next t) :
    (t.cd = s.cd ∧ t.cdCount = s.cdCount) ∨ (s.phase = .loading ∧ ∃ len sym, i = .ldsym len sym) := by
  rcases exec_next_cases h with hok | herr
  · rcases hok.write.sameDictionary with hsame | hreset | hempty | hldsym
    · exact .inl hsame
    · exact absurd hreset hi
    · exact absurd hempty hp
    · exact .inr hldsym
  · obtain ⟨-, hsame, -⟩ := herr.frame
    exact .inl hsame

/-- Settles O42, by the kinds of write. -/
theorem artifactsAreReadOnlyOnceBuilt : Obligations.ArtifactsAreReadOnlyOnceBuilt := by
  intro i s t hp hi h
  obtain ⟨hk, hn, hg, hh, hst, hord, hsc, hcc, hcaps, henum, hinbox, hdin⟩ := exec_sameCode hp hi h
  refine ⟨hk, hn, hg, hh, hst, hord, hsc, hcc, hcaps, henum, hinbox, hdin, fun hne => ?_⟩
  rcases exec_sameDictionary hp hi h with ⟨hcd, hcount⟩ | hldsym
  · exact absurd hne (by simp [hcd, hcount])
  · exact hldsym

/-! The ROM's canonical form (assumption log 9). -/

theorem tryCandidate_st_wf {h : Matrix} {t : SynTable} {c : Bits} (ht : t.st.wf) : (tryCandidate h t c).st.wf := by
  rcases tryCandidate_cases h t c with ⟨-, -, he⟩ | ⟨-, he⟩ <;> rw [he]
  · exact Memory.write_wf _ _ ht
  · exact ht

theorem buildSyndromeTable_st_wf (enum : Nat → Nat → Nat → Bits) (h : Matrix) (n k : Nat) :
    (buildSyndromeTable enum h n k).st.wf :=
  buildSyndromeTable_induct (fun _ t => t.st.wf) List.Pairwise.nil fun _ _ => tryCandidate_st_wf

theorem exec_st_wf {i : Instr} {s t : State} (hwf : s.st.wf) (h : exec i s = .next t) : t.st.wf := by
  rcases exec_next_cases h with hok | herr
  · cases hok.write with
    | reader r reads => exact hwf
    | reset r => exact reset_memory_wf
    | construct r => exact buildSyndromeTable_st_wf ..
    | ldsym r => exact hwf
    | sealCode r => exact hwf
    | decode r fb1 fb2 zs => rw [takeDraws_eq]; exact hwf
  · obtain ⟨hsame, -⟩ := herr.frame
    rw [hsame.st]; exact hwf

/-- Settles O60: a reset empties the ROM, CONSTRUCT builds it by canonical writes, nothing else writes it. -/
theorem stepKeepsTheRomCanonical : Obligations.StepKeepsTheRomCanonical := by
  intro s t hwf h
  rcases step_next_cases h with ⟨-, rfl⟩ | ⟨u, rfl, -⟩ | ⟨w, d, rest, -, ⟨i, -, hex⟩ | rfl⟩
  · exact hwf
  · exact reset_memory_wf
  · exact exec_st_wf (s := (s.withInbox rest).sampled d) hwf hex
  · exact hwf

/-! The error record and the counters. -/

theorem OkWrite.sameRecord {i : Instr} {s t : State} (h : OkWrite i s t) (hi : i ≠ .reset) :
    t.errbits = s.errbits ∧ t.lastErr = s.lastErr := by
  cases h with
  | reader r reads => exact ⟨rfl, rfl⟩
  | reset r => exact absurd rfl hi
  | construct r => exact ⟨rfl, rfl⟩
  | ldsym r => exact ⟨rfl, rfl⟩
  | sealCode r => exact ⟨rfl, rfl⟩
  | decode r fb1 fb2 zs => rw [takeDraws_eq]; exact ⟨rfl, rfl⟩

/-- Settles O38, by the kinds of write. -/
theorem okKeepsTheErrorRecord : Obligations.OkKeepsTheErrorRecord :=
  fun _ _ _ _ hi h hr h0 => (exec_next_ok h hr h0).write.sameRecord hi

theorem satIncrIf_toNat (b : Bool) (c : BitVec 32) :
    (satIncrIf b c).toNat = min (c.toNat + b.toNat) (2 ^ 32 - 1) := by
  cases b with
  | true => exact satIncr_toNat c
  | false => have := c.isLt; simp; omega

theorem tagsByte_getLsbD_zero (synFb cwFb zs v : Bool) : (tagsByte synFb cwFb zs v).getLsbD 0 = synFb := by
  revert synFb cwFb zs v; decide

theorem tagsByte_getLsbD_one (synFb cwFb zs v : Bool) : (tagsByte synFb cwFb zs v).getLsbD 1 = cwFb := by
  revert synFb cwFb zs v; decide

/-- A decode that ends OK counts itself and each fallback that its tags show (10_state R34). -/
theorem OkWrite.counters_of_decode {i : Instr} {s t : State} {r : Response} (h : OkWrite i s t)
    (hr : t.resp = some r) (hi : ∃ len, i = .dec len ∨ i = .decl len) :
    t.decCount = satIncr s.decCount ∧ t.fb1Count = satIncrIf (r.tags.getLsbD 0) s.fb1Count ∧
      t.fb2Count = satIncrIf (r.tags.getLsbD 1) s.fb2Count := by
  cases h with
  | decode r fb1 fb2 zs built decodes tags =>
    cases hr
    rw [tags, tagsByte_getLsbD_zero, tagsByte_getLsbD_one, takeDraws_eq]
    exact ⟨rfl, rfl, rfl⟩
  | reader r reads => obtain ⟨len, rfl | rfl⟩ := hi <;> cases reads
  | _ => simp at hi

/-- Any other command but RESET leaves the counters. -/
theorem OkWrite.counters_of_not_decode {i : Instr} {s t : State} (h : OkWrite i s t) (hreset : i ≠ .reset)
    (hi : ∀ len, i ≠ .dec len ∧ i ≠ .decl len) :
    t.decCount = s.decCount ∧ t.fb1Count = s.fb1Count ∧ t.fb2Count = s.fb2Count := by
  cases h with
  | reader r reads => exact ⟨rfl, rfl, rfl⟩
  | reset r => exact absurd rfl hreset
  | construct r => exact ⟨rfl, rfl, rfl⟩
  | ldsym r => exact ⟨rfl, rfl, rfl⟩
  | sealCode r => exact ⟨rfl, rfl, rfl⟩
  | decode r fb1 fb2 zs built decodes =>
    obtain ⟨len, rfl, -⟩ | ⟨len, rfl⟩ := decodes
    · exact absurd rfl (hi len).1
    · exact absurd rfl (hi len).2

/-- DEC has no codeword fallback to count. -/
theorem OkWrite.fb2Count_of_dec {s t : State} {len : BitVec 8} (h : OkWrite (.dec len) s t) :
    t.fb2Count = s.fb2Count := by
  cases h with
  | reader r reads => rfl
  | decode r fb1 fb2 zs built decodes =>
    obtain ⟨_, -, rfl⟩ | ⟨_, ⟨⟩⟩ := decodes
    rw [takeDraws_eq]; rfl

/-- Settles O37: what a decode counts, and that nothing else counts. -/
theorem countersCountOkDecodes : Obligations.CountersCountOkDecodes := by
  refine fun i s t r hreset h hr => ⟨fun h0 hi => ?_, fun hcase => ?_, ?_⟩
  · obtain ⟨hdec, hfb1, hfb2⟩ := (exec_next_ok h hr h0).write.counters_of_decode hr hi
    rw [hdec, hfb1, hfb2]
    exact ⟨satIncr_toNat _, satIncrIf_toNat _ _, satIncrIf_toNat _ _⟩
  · rcases exec_next_cases h with hok | herr
    · exact hok.write.counters_of_not_decode hreset (hcase.resolve_left (absurd (hok.status hr)))
    · obtain ⟨-, -, hsame⟩ := herr.frame
      exact hsame
  · rintro ⟨len, rfl⟩
    rcases exec_next_cases h with hok | herr
    · exact hok.write.fb2Count_of_dec
    · obtain ⟨-, -, -, -, hfb2⟩ := herr.frame
      exact hfb2

end Sys2Proof.Machine

/-! The invariant (spec/10_state.md R24 to R35): each update that a step is made of keeps it. -/

namespace Sys2Proof.Machine

/-! The error record and the counters. -/

theorem getLsbD_setErrBit (bits : BitVec 10) (e : ErrorCode) (j : Nat) :
    (setErrBit bits e).getLsbD j = (bits.getLsbD j || decide (j = e.code.toNat)) := by
  have hpos : e.code.toNat < 10 := by have := e.code_le_nine; omega
  by_cases hj : j = e.code.toNat
  · subst hj
    simp [setErrBit, hpos]
  · have : j < e.code.toNat ∨ e.code.toNat < j := by omega
    simp [setErrBit, hj]
    omega

theorem setErrBit_ne_zero (bits : BitVec 10) (e : ErrorCode) : setErrBit bits e ≠ 0 := by
  intro h
  have hbit := getLsbD_setErrBit bits e e.code.toNat
  rw [h] at hbit
  simp at hbit

theorem State.RecordOk.afterError {s : State} (h : s.RecordOk) (e : ErrorCode) : (s.afterError e).RecordOk := by
  obtain ⟨hbit0, -, -, -, hfaulted⟩ := h
  have hcode : e.code.toNat ≠ 0 := fun h0 => e.code_ne_zero (BitVec.eq_of_toNat_eq h0)
  refine ⟨?_, e.code_le_nine, ⟨fun h0 => absurd h0 e.code_ne_zero, fun h0 => absurd h0 (setErrBit_ne_zero _ _)⟩,
    fun _ => ?_, fun hp => ?_⟩
  · rw [State.afterError_errbits, getLsbD_setErrBit, hbit0]; simp [Ne.symm hcode]
  · simp [getLsbD_setErrBit]
  · rw [State.afterError_errbits, getLsbD_setErrBit]
    by_cases he : e = .dimensionMismatch
    · subst he; simp [ErrorCode.code]
    · rw [State.afterError_phase, phaseAfter_eq, if_neg he] at hp
      rw [hfaulted hp, Bool.true_or]

/-- A fallback that is counted is counted with its decode, so its count stays below, saturated or not. -/
theorem satIncrIf_le_satIncr {a b : BitVec 32} (h : a ≤ b) (c : Bool) : satIncrIf c a ≤ satIncr b := by
  have hc := c.toNat_le
  rw [BitVec.le_def] at h ⊢
  rw [satIncrIf_toNat, satIncr_toNat]
  omega

theorem State.CountersOk.counted {s : State} (h : s.CountersOk) (fb1 fb2 : Bool) : (s.counted fb1 fb2).CountersOk :=
  ⟨satIncrIf_le_satIncr h.1 fb1, satIncrIf_le_satIncr h.2 fb2⟩

/-! The dictionary. -/

/-- G is systematic: a codeword starts with its message (41_generator_builder R162, R167). -/
theorem take_vecmat_buildGenerator {k n : Nat} {u : Bits} (hkn : k < n) (hu : u.length = k) :
    (vecmat u (buildGenerator k n)).take k = u := by
  apply List.ext_getElem
  · simp [hu]; omega
  · intro j h1 h2
    have hj : j < k := hu ▸ h2
    rw [List.getElem_take, getElem_vecmat, column_buildGenerator_left hkn hj, dot_comm, ← hu, dot_unitVec h2,
      parity_toNat]

/-- An entry for a new codeword, in a dictionary with room for it. -/
theorem State.DictionaryOk.withEntry {s : State} {u : Bits} {sym : Symbol} (h : s.DictionaryOk) (hcaps : s.caps.wf)
    (hkn : s.kVal < s.nVal) (hg : s.g = buildGenerator s.kVal s.nVal) (hu : u.length = s.kVal)
    (fresh : ∀ e ∈ s.cd, e.cw ≠ vecmat u s.g) (room : s.cdCount.toNat ≠ s.caps.aMax)
    (fits : sym.toNat < 2 ^ s.caps.symw) : (s.withEntry s.cd (vecmat u s.g) sym).DictionaryOk := by
  obtain ⟨hlen, hmax, hdistinct, hentries⟩ := h
  obtain ⟨-, -, -, -, -, haMax, -⟩ := hcaps
  refine ⟨?_, ?_, ?_, fun e he => ?_⟩
  · have hone : (1 : BitVec 16).toNat = 1 := rfl
    simp only [State.withEntry_cd, State.withEntry_cdCount, List.length_append, List.length_singleton, BitVec.toNat_add,
      hone]
    omega
  · simp only [State.withEntry_cd, State.withEntry_caps, List.length_append, List.length_singleton]
    omega
  · simp only [State.withEntry_cd, List.map_append, List.map_cons, List.map_nil]
    refine List.nodup_append.mpr ⟨hdistinct, List.nodup_singleton _, fun a ha b hb => ?_⟩
    obtain ⟨e, he, rfl⟩ := List.mem_map.mp ha
    rw [List.mem_singleton.mp hb]
    exact fresh e he
  · rcases List.mem_append.mp he with he | he
    · exact hentries e he
    · rw [List.mem_singleton.mp he]
      refine ⟨?_, fits⟩
      show vecmat u s.g = vecmat ((vecmat u s.g).take s.kVal) s.g
      rw [hg, take_vecmat_buildGenerator hkn hu]

/-! The updates of a step. -/

/-- Where nothing of the block's own state differs, the invariant is the same. -/
theorem State.inv_takeDraws {s : State} {count : Nat} : (takeDraws count s).Inv ↔ s.Inv := by
  rw [takeDraws_eq]; exact Iff.rfl

theorem State.Inv.caps_wf {s : State} (h : s.Inv) : s.caps.wf := h.1

theorem State.inv_cleared {s : State} (hcaps : s.caps.wf) : s.cleared.Inv := by
  have hnothing : State.reset.NothingBuilt := by decide
  have hcount : State.reset.CountersOk := by decide
  have hrecord : State.reset.RecordOk := by decide
  exact ⟨hcaps, fun _ => hnothing, fun hp => absurd rfl hp, hcount, hrecord⟩

theorem State.Inv.afterError {s : State} {e : ErrorCode} (h : s.Inv)
    (hp : e = .dimensionMismatch → s.phase ≠ .empty) : (s.afterError e).Inv := by
  obtain ⟨hcaps, hempty, hbuilt, hcount, hrecord⟩ := h
  have hphase : (s.afterError e).phase = .empty ↔ s.phase = .empty := by
    rw [State.afterError_phase, phaseAfter_eq]
    split
    · next he => simp [hp he]
    · rfl
  exact ⟨hcaps, fun h => hempty (hphase.mp h), fun h => hbuilt fun h' => h (hphase.mpr h'), hcount,
    hrecord.afterError e⟩

theorem State.Inv.constructed {s : State} {k n : BitVec 8} (h : s.Inv) (hk : k ≠ 0) (hkn : k.toNat < n.toNat)
    (hn : n.toNat ≤ s.caps.nMax) (hr : n.toNat - k.toNat ≤ s.caps.rMax) :
    (s.constructed k n).Inv := by
  obtain ⟨hcaps, -, -, hcount, hbit0, hle, hzero, hset, -⟩ := h
  have hkpos : 1 ≤ k.toNat := Nat.pos_of_ne_zero fun h0 => hk (BitVec.eq_of_toNat_eq h0)
  refine ⟨hcaps, fun h => (by cases h), fun _ => ⟨⟨hkpos, hkn, hn, hr⟩, ⟨rfl, rfl, rfl, rfl, rfl⟩, ?_⟩, hcount,
    hbit0, hle, hzero, hset, fun h => (by cases h)⟩
  exact ⟨rfl, Nat.zero_le _, List.nodup_nil, fun e he => absurd he List.not_mem_nil⟩

theorem State.Inv.withEntry {s : State} {u : Bits} {sym : Symbol} (h : s.Inv) (hp : s.phase = .loading)
    (hu : u.length = s.kVal) (fresh : ∀ e ∈ s.cd, e.cw ≠ vecmat u s.g) (room : s.cdCount.toNat ≠ s.caps.aMax)
    (fits : sym.toNat < 2 ^ s.caps.symw) : (s.withEntry s.cd (vecmat u s.g) sym).Inv := by
  have hne : s.phase ≠ .empty := by simp [hp]
  obtain ⟨hparams, hart, hdict⟩ := h.built hne
  have ⟨_, hkn, _⟩ := hparams
  have ⟨hg, _⟩ := hart
  obtain ⟨hcaps, -, -, hcount, hrecord⟩ := h
  exact ⟨hcaps, fun he => absurd he hne,
    fun _ => ⟨hparams, hart, hdict.withEntry hcaps hkn hg hu fresh room fits⟩, hcount, hrecord⟩

theorem State.Inv.sealedOff {s : State} (h : s.Inv) (hp : s.phase = .loading) : s.sealedOff.Inv := by
  obtain ⟨hcaps, -, hbuilt, hcount, hbit0, hle, hzero, hset, -⟩ := h
  exact ⟨hcaps, fun h => (by cases h), fun _ => hbuilt (by simp [hp]), hcount, hbit0, hle, hzero, hset,
    fun h => (by cases h)⟩

theorem State.Inv.counted {s : State} (h : s.Inv) (hp : s.phase ≠ .empty) (fb1 fb2 : Bool) :
    (s.counted fb1 fb2).Inv := by
  obtain ⟨hcaps, -, hbuilt, hcount, hrecord⟩ := h
  exact ⟨hcaps, fun he => absurd he hp, hbuilt, hcount.counted fb1 fb2, hrecord⟩

/-- Settles O58: reset clears a state of the default capacities. -/
theorem resetHasTheInvariant : Obligations.ResetHasTheInvariant :=
  ⟨State.inv_cleared (s := State.reset) (by decide), rfl⟩

end Sys2Proof.Machine

/-! No command stops the machine where the invariant holds (spec/70_reset_and_hazards.md R401): the memories hold what the
counts and K, N say, so no read is of absent storage. -/

namespace Sys2Proof.Machine

/-! What the table builder leaves (spec/43_syndrome_table.md R205, R201). -/

theorem tryCandidate_ord_length_le (h : Matrix) (t : SynTable) (c : Bits) :
    (tryCandidate h t c).ord.length ≤ t.ord.length + 1 := by
  rcases tryCandidate_cases h t c with ⟨-, -, he⟩ | ⟨-, he⟩ <;> rw [he] <;> simp

/-- At most one entry per candidate. -/
theorem buildSyndromeTable_ord_length_le (enum : Nat → Nat → Nat → Bits) (h : Matrix) (n k : Nat) :
    (buildSyndromeTable enum h n k).ord.length ≤ candidateTotal k n :=
  buildSyndromeTable_induct (fun m t => t.ord.length ≤ m) (le_refl 0) fun _ t ht =>
    (tryCandidate_ord_length_le h t _).trans (Nat.succ_le_succ ht)

/-- Every address in ORD has an entry in ST. -/
def SynTable.OrdListed (t : SynTable) : Prop :=
  ∀ a ∈ t.ord, (t.st.read a).isSome = true

theorem SynTable.OrdListed.tryCandidate {t : SynTable} (ht : t.OrdListed) (h : Matrix) (c : Bits) :
    (tryCandidate h t c).OrdListed := by
  rcases tryCandidate_cases h t c with ⟨-, -, he⟩ | ⟨-, he⟩ <;> rw [he]
  · intro a ha
    rw [Memory.isSome_read_iff, Memory.mem_fst_write]
    rcases List.mem_append.mp ha with ha | ha
    · exact .inr (Memory.isSome_read_iff.mp (ht a ha))
    · exact .inl (List.mem_singleton.mp ha)
  · exact ht

theorem buildSyndromeTable_ordListed (enum : Nat → Nat → Nat → Bits) (h : Matrix) (n k : Nat) :
    (buildSyndromeTable enum h n k).OrdListed :=
  buildSyndromeTable_induct (fun _ t => t.OrdListed) (fun _ ha => absurd ha List.not_mem_nil)
    fun _ _ ht => ht.tryCandidate h _

/-! What the reads answer once a code is built. -/

section

variable {s : State} (hi : s.Inv) (hp : s.phase ≠ .empty)
include hi hp

/-- ST_COUNT is not cut off: there are at most 2^16 - 1 candidates (10_state R24, R30). -/
theorem State.Inv.ord_length_eq : s.ord.length = s.stCount.toNat := by
  obtain ⟨⟨-, -, -, hr⟩, ⟨-, -, htable, hcount, -⟩, -⟩ := hi.built hp
  obtain ⟨⟨-, -, -, hrMax, -⟩, -⟩ := hi
  have hle : s.ord.length ≤ candidateTotal s.kVal s.nVal := by
    have := buildSyndromeTable_ord_length_le s.enumOf s.h s.nVal s.kVal
    rwa [← htable] at this
  have hpow : 2 ^ s.rVal ≤ 2 ^ 16 := Nat.pow_le_pow_right (by decide) (hr.trans hrMax)
  have hlt : s.ord.length < 2 ^ 16 := by
    have htotal : candidateTotal s.kVal s.nVal = 2 ^ s.rVal - 1 := rfl
    have := Nat.two_pow_pos s.rVal
    omega
  rw [hcount, BitVec.toNat_ofNat, Nat.mod_eq_of_lt hlt]

/-- ORD[t] is an address with an entry, for t below ST_COUNT. -/
theorem State.Inv.ordAt_eq {t : Nat} (ht : t < s.stCount.toNat) :
    ∃ a e, s.ordAt t = some a ∧ s.st.read a = some e := by
  have hlen := hi.ord_length_eq hp
  obtain ⟨-, ⟨-, -, htable, -⟩, -⟩ := hi.built hp
  have hlisted := buildSyndromeTable_ordListed s.enumOf s.h s.nVal s.kVal
  rw [← htable] at hlisted
  obtain ⟨e, he⟩ := Option.isSome_iff_exists.mp (hlisted _ (List.getElem_mem (hlen ▸ ht)))
  refine ⟨_, e, ?_, he⟩
  rw [State.ordAt, if_pos hlen, List.getElem?_eq_getElem]

theorem State.Inv.errAt_eq {t : Nat} (ht : t < s.stCount.toNat) : ∃ e, s.errAt t = .ok e := by
  obtain ⟨a, e, ha, he⟩ := hi.ordAt_eq hp ht
  exact ⟨e, by simp only [State.errAt, ha, he]⟩

/-- Each view has its rows (30_encoding R105). -/
theorem State.Inv.rows_view (sel : Sel) : (viewOf s.g s.h sel).rows.length = s.viewRows sel := by
  obtain ⟨-, ⟨hg, hh, -⟩, -⟩ := hi.built hp
  cases sel <;> rw [hh, hg] <;> simp [viewOf, transpose, State.viewRows, buildGenerator, buildParityCheck]

theorem State.Inv.view_row_eq {sel : Sel} {i : Nat} (h : i < s.viewRows sel) :
    ∃ row, ((s.view sel).bind fun m => m.rows[i]?) = some row := by
  rw [hi.view_eq hp]
  exact ⟨_, List.getElem?_eq_getElem (hi.rows_view hp sel ▸ h)⟩

theorem State.Inv.dictionary_entry_eq {i : Nat} (h : i < s.cdCount.toNat) :
    ∃ e, (s.dictionary.bind fun cd => cd[i]?) = some e := by
  obtain ⟨-, -, hlen, -⟩ := hi.built hp
  rw [hi.dictionary_eq hp]
  exact ⟨_, List.getElem?_eq_getElem (hlen ▸ h)⟩

/-- Steps 1 and 2 of a decode end with a choice or with EmptyFallback. -/
theorem State.Inv.locateError_stop {y : Bits} {stop : Stop} (h : locateError y s = .error stop) :
    stop = .error .emptyFallback s := by
  rw [hi.locateError_eq hp] at h
  unfold chooseError at h
  split at h
  · cases h
  · split at h
    · cases h
    · unfold syndromeFallback at h
      split at h
      · cases h; rfl
      · next hcount =>
        have hpos : 0 < s.stCount.toNat := Nat.pos_of_ne_zero fun h0 => hcount (BitVec.eq_of_toNat_eq h0)
        obtain ⟨e, he⟩ := hi.errAt_eq hp (Nat.mod_lt s.drawValue hpos)
        rw [he] at h
        cases h

/-- So does step 4. -/
theorem State.Inv.resolveSymbol_stop {x : Bits} {stop : Stop} (h : resolveSymbol x s = .error stop) :
    stop = .error .emptyFallback s := by
  obtain ⟨-, -, hlen, -⟩ := hi.built hp
  unfold resolveSymbol at h
  rw [hi.dictionary_eq hp] at h
  dsimp only at h
  split at h
  · cases h
  · split at h
    · cases h; rfl
    · next hcount =>
      have hpos : 0 < s.cdCount.toNat := Nat.pos_of_ne_zero fun h0 => hcount (BitVec.eq_of_toNat_eq h0)
      rw [List.getElem?_eq_getElem (hlen.symm ▸ Nat.mod_lt s.drawValue hpos : _ < s.cd.length)] at h
      cases h

end

/-! A command answers a next state. -/

/-- The machine does not stop. -/
def Answers (r : Result) : Prop :=
  ∃ t, r = .next t

theorem answers_respond (r : Response) (s : State) : Answers (respond r s) := ⟨_, rfl⟩
theorem answers_raise (e : ErrorCode) (s : State) : Answers (raise e s) := ⟨_, rfl⟩

theorem answers_gate {allowed : Phase → Bool} {s : State} {run : Result}
    (h : allowed s.phase = true → Answers run) : Answers (gate allowed s run) := by
  rcases gate_cases allowed s run with ⟨-, he⟩ | ⟨-, -, he⟩ | ⟨-, ha, he⟩ <;> rw [he]
  · exact answers_raise _ _
  · exact answers_raise _ _
  · exact h ha

/-- A check that fails is an error, so only what follows it can stop. -/
theorem answers_check {p : Prop} [Decidable p] {e : ErrorCode} {s : State} {run : Result} (h : ¬p → Answers run) :
    Answers (if p then raise e s else run) := by
  split
  · exact answers_raise _ _
  · next hp => exact h hp

theorem answers_withStored {α : Type} {m : Storage} {o : Option α} {run : α → Result} {a : α} (h : o = some a)
    (hrun : Answers (run a)) : Answers (withStored m o run) := by
  rw [h]; exact hrun

theorem ne_empty_of_allowed {allowed : Phase → Bool} {p : Phase} (h : allowed p = true)
    (hempty : allowed .empty = false) : p ≠ .empty := by
  rintro rfl
  rw [hempty] at h
  cases h

theorem execDec_answers {s : State} (hi : s.Inv) (len : BitVec 8) : Answers (execDec len s) := by
  refine answers_gate fun hp => answers_check fun _ => ?_
  split
  · next stop hstop =>
    rw [hi.locateError_stop (ne_empty_of_allowed hp rfl) hstop]
    exact answers_raise _ _
  · exact answers_respond _ _

theorem execDecl_answers {s : State} (hi : s.Inv) (len : BitVec 8) : Answers (execDecl len s) := by
  refine answers_gate fun hp => answers_check fun _ => ?_
  have hne := ne_empty_of_allowed hp rfl
  split
  · next stop hstop =>
    rw [hi.locateError_stop hne hstop]
    exact answers_raise _ _
  · next c u hu =>
    obtain rfl := locateError_draws hu
    split
    · next stop hstop =>
      rw [(State.inv_takeDraws.mpr hi).resolveSymbol_stop (by rw [takeDraws_eq]; exact hne) hstop]
      exact answers_raise _ _
    · exact answers_respond _ _

theorem exec_answers {s : State} (hi : s.Inv) (i : Instr) : Answers (exec i s) := by
  cases i with
  | nop => exact answers_respond _ _
  | reset => exact answers_respond _ _
  | construct k n => exact answers_gate fun _ => answers_check fun _ => answers_check fun _ => answers_respond _ _
  | ldsym len sym =>
    refine answers_gate fun hp => answers_check fun _ => ?_
    have hne := ne_empty_of_allowed hp rfl
    exact answers_withStored (hi.genMatrix_eq hne) <| answers_withStored (hi.dictionary_eq hne) <|
      answers_check fun _ => answers_check fun _ => answers_respond _ _
  | sealCode => exact answers_gate fun _ => answers_respond _ _
  | mul len sel =>
    exact answers_gate fun hp => answers_check fun _ =>
      answers_withStored (hi.view_eq (ne_empty_of_allowed hp rfl) sel) (answers_respond _ _)
  | wt len => exact answers_gate fun _ => answers_check fun _ => answers_respond _ _
  | rdm sel idx =>
    refine answers_gate fun hp => answers_check fun hlt => ?_
    obtain ⟨row, hrow⟩ := hi.view_row_eq (ne_empty_of_allowed hp rfl) (Nat.not_le.mp hlt)
    exact answers_withStored hrow (answers_respond _ _)
  | rdst idx =>
    refine answers_gate fun _ => answers_check fun _ => ?_
    split <;> exact answers_respond _ _
  | rdsto idx =>
    refine answers_gate fun hp => answers_check fun hlt => ?_
    obtain ⟨a, e, ha, he⟩ := hi.ordAt_eq (ne_empty_of_allowed hp rfl) (Nat.not_le.mp hlt)
    exact answers_withStored ha (answers_withStored he (answers_respond _ _))
  | rdcd idx =>
    refine answers_gate fun hp => answers_check fun hlt => ?_
    obtain ⟨e, he⟩ := hi.dictionary_entry_eq (ne_empty_of_allowed hp rfl) (Nat.not_le.mp hlt)
    exact answers_withStored he (answers_respond _ _)
  | rdreg idx =>
    show Answers (execRdreg idx s)
    unfold execRdreg
    split
    · exact answers_respond _ _
    · exact answers_raise _ _
  | dec len => exact execDec_answers hi len
  | decl len => exact execDecl_answers hi len

/-! A step keeps the invariant. -/

/-! What the decoder of each format answers (30_encoding R91 to R95): only format S carries a field that can be ill-formed. -/

end Sys2Proof.Machine

namespace Sys2Proof

variable {w : Word} {j : Instr}

theorem decodeZ_ok {i : Instr} (h : decodeZ i w = .ok j) : j = i := by
  unfold decodeZ at h
  split at h <;> cases h
  rfl

theorem decodeP_ok {i : BitVec 8 → BitVec 8 → Instr} (h : decodeP i w = .ok j) : j = i (byte2 w) (byte1 w) := by
  unfold decodeP at h
  split at h <;> cases h
  rfl

theorem decodeVSel_ok {i : BitVec 8 → Sel → Instr} (h : decodeVSel i w = .ok j) : ∃ sel, j = i (byte2 w) sel := by
  unfold decodeVSel at h
  split at h
  · split at h <;> cases h
    exact ⟨_, rfl⟩
  · cases h

theorem decodeV_ok {i : BitVec 8 → Instr} (h : decodeV i w = .ok j) : j = i (byte2 w) := by
  unfold decodeV at h
  split at h
  · split at h <;> cases h
    rfl
  · cases h

theorem decodeXSel_ok {i : Sel → BitVec 16 → Instr} (h : decodeXSel i w = .ok j) : ∃ sel, j = i sel (half0 w) := by
  unfold decodeXSel at h
  split at h <;> cases h
  exact ⟨_, rfl⟩

theorem decodeX_ok {i : BitVec 16 → Instr} (h : decodeX i w = .ok j) : j = i (half0 w) := by
  unfold decodeX at h
  split at h <;> cases h
  rfl

theorem decodeS_ok {symw : Nat} {i : BitVec 8 → Symbol → Instr} (h : decodeS symw i w = .ok j) :
    symbolFits symw (half0 w) = true ∧ j = i (byte2 w) (half0 w) := by
  unfold decodeS at h
  split at h <;> cases h
  next hfits => exact ⟨hfits, rfl⟩

/-- The decoder answers well-formed commands only (30_encoding R110). -/
theorem decode_wellFormed {symw : Nat} (h : decode symw w = .ok j) : j.wellFormed symw = true := by
  unfold decode at h
  split at h
  · rw [decodeZ_ok h]; rfl
  · rw [decodeZ_ok h]; rfl
  · rw [decodeP_ok h]; rfl
  · obtain ⟨hfits, rfl⟩ := decodeS_ok h; exact hfits
  · rw [decodeZ_ok h]; rfl
  · obtain ⟨sel, rfl⟩ := decodeVSel_ok h; rfl
  · rw [decodeV_ok h]; rfl
  · obtain ⟨sel, rfl⟩ := decodeXSel_ok h; rfl
  · rw [decodeX_ok h]; rfl
  · rw [decodeX_ok h]; rfl
  · rw [decodeX_ok h]; rfl
  · rw [decodeX_ok h]; rfl
  · rw [decodeV_ok h]; rfl
  · rw [decodeV_ok h]; rfl
  · cases h

end Sys2Proof

/-! A step keeps the invariant. -/

namespace Sys2Proof.Machine

theorem OkWrite.inv {i : Instr} {s t : State} (h : OkWrite i s t) (hi : s.Inv)
    (hwf : i.wellFormed s.caps.symw = true) : t.Inv := by
  cases h with
  | reader r reads => exact hi
  | reset r => exact State.inv_cleared hi.caps_wf
  | construct r phase pos lt leN leR => exact hi.constructed pos lt leN leR
  | ldsym r phase stored fresh room =>
    exact hi.withEntry phase (length_unpack _ _) fresh room (of_decide_eq_true hwf)
  | sealCode r phase => exact hi.sealedOff phase
  | decode r fb1 fb2 zs built =>
    exact (State.inv_takeDraws.mpr hi).counted (by rw [takeDraws_eq]; exact ne_empty_of_allowed built rfl) fb1 fb2

theorem ErrorEffect.inv {i : Instr} {s t : State} (h : ErrorEffect i s t) (hi : s.Inv) : t.Inv := by
  obtain ⟨e, u, rfl, hc, hu⟩ := h.write
  have hui : u.Inv := by rcases hu with rfl | rfl <;> exact hi
  have huphase : u.phase = s.phase := by rcases hu with rfl | rfl <;> rfl
  refine hui.afterError fun he => ?_
  subst he
  rcases hc.built_of_dimensionMismatch with hp | hp <;> simp [huphase, hp]

theorem exec_inv {i : Instr} {s t : State} (hi : s.Inv) (hwf : i.wellFormed s.caps.symw = true)
    (h : exec i s = .next t) : t.Inv := by
  rcases exec_next_cases h with hok | herr
  · exact hok.write.inv hi hwf
  · exact herr.inv hi

theorem step_answers {s : State} (hi : s.Inv) : Answers (step s) := by
  cases hin : s.inbox with
  | nil => exact ⟨s.idle, by simp only [step, stepEvent, hin]⟩
  | cons e rest =>
    rw [step_of_inbox hin]
    cases e with
    | resetInput => exact ⟨_, rfl⟩
    | resetDuring w d taken => exact ⟨_, rfl⟩
    | command w d =>
      simp only [runEvent, runCommand]
      split
      · next i _ => exact exec_answers (s := (s.withInbox rest).sampled d) hi i
      · exact answers_raise _ _

theorem step_inv {s t : State} (hi : s.Inv) (h : step s = .next t) : t.Inv := by
  rcases step_next_cases h with ⟨-, rfl⟩ | ⟨u, rfl, hcaps, -⟩ | ⟨w, d, rest, -, ⟨i, hdec, hex⟩ | rfl⟩
  · exact hi
  · exact State.inv_cleared (hcaps ▸ hi.caps_wf)
  · exact exec_inv (s := (s.withInbox rest).sampled d) hi (decode_wellFormed hdec) hex
  · exact State.Inv.afterError (s := (s.withInbox rest).sampled d) hi fun he => by cases he

/-- Settles O59: a step answers, since the memories hold what is read, and each update keeps the invariant. -/
theorem stepKeepsTheInvariant : Obligations.StepKeepsTheInvariant := by
  intro s hi
  obtain ⟨t, ht⟩ := step_answers hi
  exact ⟨t, ht, step_inv hi ht⟩

end Sys2Proof.Machine

/-! The values at reset and the register map (spec/10_state.md R36, R45). -/

namespace Sys2Proof.Machine

/-- Settles O8: the fields of the reset state. -/
theorem resetLeavesTheStatedValues : Obligations.ResetLeavesTheStatedValues :=
  ⟨rfl, rfl, rfl, rfl, rfl, rfl, rfl, rfl, rfl, rfl, rfl, rfl⟩

theorem execRdreg_of_register {idx : BitVec 16} {s : State} {v : Word} (h : s.register idx.toNat = some v) :
    exec (.rdreg idx) s = respond { val := v } s := by
  show execRdreg idx s = _
  simp only [execRdreg, h]

theorem execRdreg_of_unmapped {idx : BitVec 16} {s : State} (h : idx.toNat > 0xC) :
    exec (.rdreg idx) s = raise .rangeError s := by
  show execRdreg idx s = _
  simp only [execRdreg, (register_eq_none_iff s _).mpr h]

/-- CAP0 loses no bit of a capacity within the bounds of 00_scope R6. -/
theorem cap0_eq {c : Caps} (h : c.wf) :
    cap0 c = BitVec.ofNat 32 (c.nMax + 2 ^ 8 * c.rMax + 2 ^ 16 * c.symw + 2 ^ 24 * c.rndw) := by
  obtain ⟨-, hn, -, hr, -, -, -, hs, hd⟩ := h
  apply BitVec.eq_of_toNat_eq
  simp only [cap0, toNat_append_add, BitVec.toNat_ofNat]
  omega

theorem cap1_eq {c : Caps} (h : c.wf) : cap1 c = BitVec.ofNat 32 c.aMax := by
  obtain ⟨-, -, -, -, -, ha, -⟩ := h
  apply BitVec.eq_of_toNat_eq
  simp only [cap1, toNat_append_add, BitVec.toNat_ofNat]
  omega

/-- Settles O28, register by register. -/
theorem rdregReadsTheMap : Obligations.RdregReadsTheMap := by
  refine ⟨fun s => ⟨?_, ?_, ?_, ?_, ?_, ?_, ?_, ?_, ?_, ?_, ?_, fun hcaps v hv => ?_, fun hcaps => ?_⟩,
    fun s idx => execRdreg_of_unmapped, ⟨rfl, rfl, rfl, rfl⟩, ?_, ?_⟩
  case refine_12 => rw [hv, ← cap0_eq hcaps]; exact execRdreg_of_register rfl
  case refine_13 => rw [← cap1_eq hcaps]; exact execRdreg_of_register rfl
  all_goals exact execRdreg_of_register rfl

end Sys2Proof.Machine

/-! The step's command, the operand checks and the readers (spec/20_memory.md R67, R68, R73, R74). -/

namespace Sys2Proof.Machine

/-- Settles O5: the step takes the event, and the event's word is decoded and run. -/
theorem stepRunsTheDecodedInstruction : Obligations.StepRunsTheDecodedInstruction := by
  intro s w d rest i hin hdec
  rw [step_of_inbox hin]
  show runCommand w d (s.withInbox rest) = exec i ((s.withInbox rest).sampled d)
  simp only [runCommand, State.withInbox_caps, hdec]

/-! The operand checks (20_memory R67). -/

/-- Where a command's row of the table of 10_state R23 is the phases its gate lets pass, an admitted command goes on. -/
theorem gate_of_admission_ok {i : Instr} {s : State} {allowed : Phase → Bool} {run : Result}
    (hrow : ∀ q, admission i q = if q = .faulted then .f else if allowed q then .ok else .wp)
    (hok : admission i s.phase = .ok) : gate allowed s run = run := by
  rw [hrow] at hok
  split at hok
  · cases hok
  · next hp =>
    split at hok
    · next ha => exact gate_pass hp ha
    · cases hok

/-- A meaning that makes a check behind its gate raises the check's error, where the command is admitted and the check
fails. -/
theorem gate_check_of_admission_ok {i : Instr} {s : State} {allowed : Phase → Bool} {p : Prop} [Decidable p]
    {e : ErrorCode} {run : Result}
    (hrow : ∀ q, admission i q = if q = .faulted then .f else if allowed q then .ok else .wp)
    (hok : admission i s.phase = .ok) (hp : p) : gate allowed s (if p then raise e s else run) = raise e s := by
  rw [gate_of_admission_ok hrow hok, if_pos hp]

theorem exec_of_dimensionFails {i : Instr} {s : State} (hok : admission i s.phase = .ok)
    (h : dimensionFails s.kVal s.nVal i = true) : exec i s = raise .dimensionMismatch s := by
  cases i with
  | mul len sel =>
    exact gate_check_of_admission_ok (fun q => by cases q <;> rfl) hok (viewRows_eq_rowsOf s sel ▸ bne_iff_ne.mp h)
  | ldsym _ _ | dec _ | decl _ =>
    exact gate_check_of_admission_ok (fun q => by cases q <;> rfl) hok (bne_iff_ne.mp h)
  | nop | reset | construct _ _ | sealCode | wt _ | rdm _ _ | rdst _ | rdsto _ | rdcd _ | rdreg _ => cases h

theorem exec_of_rangeFails {i : Instr} {s : State} (hok : admission i s.phase = .ok) (h : rangeFails s i = true) :
    exec i s = raise .rangeError s := by
  cases i with
  | rdm sel idx =>
    exact gate_check_of_admission_ok (fun q => by cases q <;> rfl) hok
      (viewRows_eq_rowsOf s sel ▸ of_decide_eq_true h)
  | wt _ | rdst _ | rdsto _ | rdcd _ =>
    exact gate_check_of_admission_ok (fun q => by cases q <;> rfl) hok (of_decide_eq_true h)
  | rdreg _ => exact execRdreg_of_unmapped (of_decide_eq_true h)
  | nop | reset | construct _ _ | ldsym _ _ | sealCode | mul _ _ | dec _ | decl _ => cases h

theorem State.ParametersOk.rowsOf_ne_zero {s : State} (h : s.ParametersOk) (sel : Sel) :
    0 ≠ rowsOf s.kVal s.nVal sel := by
  obtain ⟨hk, hkn, -, -⟩ := h
  cases sel <;> simp only [rowsOf] <;> omega

/-- No view of a code has zero rows (20_memory R67). -/
theorem State.ParametersOk.dimensionFails_zero {s : State} (h : s.ParametersOk) {i : Instr}
    (hi : (∃ sel, i = .mul 0 sel) ∨ (∃ sym, i = .ldsym 0 sym) ∨ i = .dec 0 ∨ i = .decl 0) :
    dimensionFails s.kVal s.nVal i = true := by
  rcases hi with ⟨sel, rfl⟩ | ⟨sym, rfl⟩ | rfl | rfl
  · exact bne_iff_ne.mpr (h.rowsOf_ne_zero sel)
  · exact bne_iff_ne.mpr (h.rowsOf_ne_zero .g)
  · exact bne_iff_ne.mpr (h.rowsOf_ne_zero .h)
  · exact bne_iff_ne.mpr (h.rowsOf_ne_zero .h)

/-- WT of length 0 is admitted with no bound to break, and the empty vector has weight 0. -/
theorem exec_wt_zero {s : State} (hok : admission (.wt 0) s.phase = .ok) :
    exec (.wt 0) s = respond { val := 0 } s := by
  show gate inUnfaulted s _ = _
  rw [gate_of_admission_ok (fun q => by cases q <;> rfl) hok]
  exact if_neg (Nat.not_lt_zero _)

/-- Settles O17: a check that fails raises its error, and an error has its cause. -/
theorem operandChecksAreTheTable : Obligations.OperandChecksAreTheTable := by
  refine fun i s hok => ⟨exec_of_dimensionFails hok, exec_of_rangeFails hok,
    fun t r h hr => ⟨fun hst => ?_, fun hst => ?_⟩, fun hparams => hparams.dimensionFails_zero, ?_⟩
  · obtain ⟨-, ⟨-, hdim⟩, -⟩ := errorCause_of_status (e := .dimensionMismatch) h hr hst
    exact hdim
  · obtain ⟨-, ⟨-, hrange⟩, -⟩ := errorCause_of_status (e := .rangeError) h hr hst
    exact hrange
  · rintro rfl
    exact exec_wt_zero hok

/-! The readers (20_memory R68). -/

theorem OkWrite.of_reader {i : Instr} {s t : State} (h : OkWrite i s t) (hi : isReader i = true) :
    ∃ r, t = s.answered r := by
  cases h with
  | reader r reads => exact ⟨r, rfl⟩
  | decode r fb1 fb2 zs built decodes => obtain ⟨len, rfl, -⟩ | ⟨len, rfl⟩ := decodes <;> cases hi
  | reset r | construct r | ldsym r | sealCode r => cases hi

/-- A reader takes no draw, so its error is raised on the state before. -/
theorem ErrorEffect.of_reader {i : Instr} {s t : State} (h : ErrorEffect i s t) (hi : isReader i = true) :
    ∃ e, t = s.afterError e ∧ ErrorCause i s e := by
  obtain ⟨e, u, rfl, hc, rfl | ⟨-, -, -, -, len, rfl⟩⟩ := h
  · exact ⟨e, rfl, hc⟩
  · cases hi

/-- Of the readers MUL alone compares a length with the code. -/
theorem eq_mul_of_dimensionFails {k n : Nat} {i : Instr} (hi : isReader i = true) (h : dimensionFails k n i = true) :
    ∃ len sel, i = .mul len sel := by
  cases i with
  | mul len sel => exact ⟨len, sel, rfl⟩
  | ldsym _ _ | dec _ | decl _ => cases hi
  | nop | reset | construct _ _ | sealCode | wt _ | rdm _ _ | rdst _ | rdsto _ | rdcd _ | rdreg _ => cases h

/-- Settles O39: a reader answers, or writes the error record, and PHASE where the error is DimensionMismatch. -/
theorem frameOfReaders : Obligations.FrameOfReaders := by
  intro i s t r hi h hr
  rcases exec_next_cases h with hok | herr
  · obtain ⟨r', rfl⟩ := hok.write.of_reader hi
    cases hr
    exact ⟨fun _ => rfl, rfl, fun _ => rfl⟩
  · obtain ⟨e, rfl, hc⟩ := herr.of_reader hi
    cases hr
    refine ⟨fun h0 => absurd h0 e.code_ne_zero, rfl, fun hmul => ?_⟩
    by_cases he : e = .dimensionMismatch
    · subst he
      obtain ⟨-, hdim⟩ := hc
      obtain ⟨len, sel, rfl⟩ := eq_mul_of_dimensionFails hi hdim
      exact absurd rfl (hmul len sel)
    · rw [State.afterError_phase, phaseAfter_eq, if_neg he]

end Sys2Proof.Machine

/-! What a command does not read of the vector port (spec/20_memory.md R62, R70): each meaning, run on a state with another
vector on `din`, answers the same, as its operand is the same. -/

namespace Sys2Proof.Machine

/-- Bits of din at and above the declared length are no part of the operand. -/
theorem State.operand_sampled {s : State} {d : PortVec} {len : Nat}
    (h : ∀ b, b < len → s.din.getLsbD b = d.getLsbD b) : (s.sampled d).operand len = s.operand len := by
  refine List.map_congr_left fun i hi => ?_
  have hi : i < len := List.mem_range.mp hi
  exact (h (len - 1 - i) (by omega)).symm

/-- The second result is the first but for the vector port, where `d` stands. -/
inductive SameButDin (d : PortVec) : Result → Result → Prop where
  | next (t : State) : SameButDin d (.next t) (.next (t.sampled d))
  | fault (r : Fault) : SameButDin d (.fault r) (.fault r)
  | refused (r : Refusal) : SameButDin d (.refused r) (.refused r)

section

variable {d : PortVec} {s : State}

theorem SameButDin.next_eq {t : State} {res : Result} (h : SameButDin d (.next t) res) : res = .next (t.sampled d) := by
  cases h; rfl

theorem sameButDin_respond (r : Response) : SameButDin d (respond r s) (respond r (s.sampled d)) :=
  .next (s.answered r)

theorem sameButDin_raise (e : ErrorCode) : SameButDin d (raise e s) (raise e (s.sampled d)) :=
  .next (s.afterError e)

theorem sameButDin_gate {allowed : Phase → Bool} {run run' : Result} (h : SameButDin d run run') :
    SameButDin d (gate allowed s run) (gate allowed (s.sampled d) run') := by
  unfold gate
  rw [State.sampled_phase]
  split
  · exact sameButDin_raise _
  · split
    · exact h
    · exact sameButDin_raise _

theorem sameButDin_check {p : Prop} [Decidable p] {e : ErrorCode} {run run' : Result}
    (h : ¬p → SameButDin d run run') :
    SameButDin d (if p then raise e s else run) (if p then raise e (s.sampled d) else run') := by
  split
  · exact sameButDin_raise _
  · next hp => exact h hp

theorem sameButDin_withStored {α : Type} {m : Storage} {o : Option α} {run run' : α → Result}
    (h : ∀ a, SameButDin d (run a) (run' a)) : SameButDin d (withStored m o run) (withStored m o run') := by
  cases o with
  | none => exact .fault _
  | some a => exact h a

/-! The reads of the state, and the steps of the decoder: they do not read the port, only the vector received from it. -/

/-- A stop, with `d` on the vector port of the state it raises its error on. -/
def Stop.sampled (d : PortVec) : Stop → Stop
  | .error e s => .error e (s.sampled d)
  | .absent m => .absent m

/-- How a step of the decoder ends, with `d` on the vector port. -/
def resampled {α : Type} (d : PortVec) : Except Stop (α × State) → Except Stop (α × State)
  | .ok (a, s) => .ok (a, s.sampled d)
  | .error stop => .error (stop.sampled d)

theorem sameButDin_stop (stop : Stop) : SameButDin d stop.result (stop.sampled d).result := by
  cases stop with
  | error e s => exact sameButDin_raise e
  | absent m => exact .fault _

theorem State.parityMatrix_sampled : (s.sampled d).parityMatrix = s.parityMatrix := rfl
theorem State.dictionary_sampled : (s.sampled d).dictionary = s.dictionary := rfl
theorem State.register_sampled (idx : Nat) : (s.sampled d).register idx = s.register idx := rfl
theorem State.errAt_sampled (t : Nat) : (s.sampled d).errAt t = s.errAt t := rfl
theorem State.drawValue_sampled : (s.sampled d).drawValue = s.drawValue := rfl

theorem syndromeFallback_sampled : syndromeFallback (s.sampled d) = resampled d (syndromeFallback s) := by
  unfold syndromeFallback
  rw [State.sampled_stCount, State.errAt_sampled, State.drawValue_sampled]
  split
  · rfl
  · cases s.errAt (s.drawValue % s.stCount.toNat) <;> rfl

theorem chooseError_sampled (a : Nat) : chooseError a (s.sampled d) = resampled d (chooseError a s) := by
  unfold chooseError
  rw [State.sampled_st]
  split
  · rfl
  · cases s.st.read a with
    | some e => rfl
    | none => exact syndromeFallback_sampled

theorem locateError_sampled (y : Bits) : locateError y (s.sampled d) = resampled d (locateError y s) := by
  unfold locateError
  rw [State.parityMatrix_sampled]
  cases s.parityMatrix with
  | none => rfl
  | some h => exact chooseError_sampled _

theorem resolveSymbol_sampled (x : Bits) : resolveSymbol x (s.sampled d) = resampled d (resolveSymbol x s) := by
  unfold resolveSymbol
  rw [State.dictionary_sampled]
  cases s.dictionary with
  | none => rfl
  | some cd =>
    dsimp only
    cases cd.find? fun entry => entry.cw == x with
    | some entry => rfl
    | none =>
      dsimp only
      rw [State.sampled_cdCount, State.drawValue_sampled]
      split
      · rfl
      · cases cd[s.drawValue % s.cdCount.toNat]? <;> rfl

/-! The meanings. -/

theorem execDec_sampled {len : BitVec 8} (h : ∀ b, b < len.toNat → s.din.getLsbD b = d.getLsbD b) :
    SameButDin d (execDec len s) (execDec len (s.sampled d)) := by
  refine sameButDin_gate (sameButDin_check fun hlen => ?_)
  have hop : (s.sampled d).operand (s.sampled d).nVal = s.operand s.nVal :=
    State.operand_sampled (not_ne_iff.mp hlen ▸ h)
  rw [hop, locateError_sampled]
  cases locateError (s.operand s.nVal) s with
  | error stop => exact sameButDin_stop stop
  | ok located => exact sameButDin_respond _

theorem execDecl_sampled {len : BitVec 8} (h : ∀ b, b < len.toNat → s.din.getLsbD b = d.getLsbD b) :
    SameButDin d (execDecl len s) (execDecl len (s.sampled d)) := by
  refine sameButDin_gate (sameButDin_check fun hlen => ?_)
  have hop : (s.sampled d).operand (s.sampled d).nVal = s.operand s.nVal :=
    State.operand_sampled (not_ne_iff.mp hlen ▸ h)
  rw [hop, locateError_sampled]
  cases locateError (s.operand s.nVal) s with
  | error stop => exact sameButDin_stop stop
  | ok located =>
    obtain ⟨c, u⟩ := located
    dsimp only [resampled]
    rw [resolveSymbol_sampled]
    cases resolveSymbol (vadd c.err (s.operand s.nVal)) u with
    | error stop => exact sameButDin_stop stop
    | ok resolved => exact sameButDin_respond _

theorem execLdsym_sampled {len : BitVec 8} {sym : Symbol} (h : ∀ b, b < len.toNat → s.din.getLsbD b = d.getLsbD b) :
    SameButDin d (execLdsym len sym s) (execLdsym len sym (s.sampled d)) := by
  refine sameButDin_gate (sameButDin_check fun hlen => ?_)
  have hop : (s.sampled d).operand (s.sampled d).kVal = s.operand s.kVal :=
    State.operand_sampled (not_ne_iff.mp hlen ▸ h)
  rw [hop]
  exact sameButDin_withStored fun g => sameButDin_withStored fun cd => sameButDin_check fun _ =>
    sameButDin_check fun _ => sameButDin_respond (s := s.withEntry cd _ sym) _

/-- A command reads no bit of the port at or above the length it declares. -/
theorem exec_sampled {i : Instr} (h : ∀ b, b < dinLength i → s.din.getLsbD b = d.getLsbD b) :
    SameButDin d (exec i s) (exec i (s.sampled d)) := by
  cases i with
  | nop => exact sameButDin_respond _
  | reset => exact sameButDin_respond (s := s.cleared) _
  | construct k n =>
    exact sameButDin_gate <| sameButDin_check fun _ => sameButDin_check fun _ =>
      sameButDin_respond (s := s.constructed k n) _
  | ldsym len sym => exact execLdsym_sampled h
  | sealCode => exact sameButDin_gate (sameButDin_respond (s := s.sealedOff) _)
  | mul len sel =>
    refine sameButDin_gate <| sameButDin_check fun _ => sameButDin_withStored fun m => ?_
    rw [State.operand_sampled (len := len.toNat) h]
    exact sameButDin_respond _
  | wt len =>
    refine sameButDin_gate <| sameButDin_check fun _ => ?_
    rw [State.operand_sampled (len := len.toNat) h]
    exact sameButDin_respond _
  | rdm sel idx =>
    exact sameButDin_gate <| sameButDin_check fun _ => sameButDin_withStored fun row => sameButDin_respond _
  | rdst idx =>
    refine sameButDin_gate <| sameButDin_check fun _ => ?_
    rw [State.sampled_st]
    split <;> exact sameButDin_respond _
  | rdsto idx =>
    exact sameButDin_gate <| sameButDin_check fun _ => sameButDin_withStored fun a => sameButDin_withStored fun e =>
      sameButDin_respond _
  | rdcd idx =>
    exact sameButDin_gate <| sameButDin_check fun _ => sameButDin_withStored fun entry => sameButDin_respond _
  | rdreg idx =>
    show SameButDin d (execRdreg idx s) (execRdreg idx (s.sampled d))
    unfold execRdreg
    rw [State.register_sampled]
    split
    · exact sameButDin_respond _
    · exact sameButDin_raise _
  | dec len => exact execDec_sampled h
  | decl len => exact execDecl_sampled h

end

/-- Settles O45: each meaning goes the same way on either vector. -/
theorem dinBeyondLengthIsIgnored : Obligations.DinBeyondLengthIsIgnored :=
  fun _ _ _ _ hagree h => (h ▸ exec_sampled hagree).next_eq

end Sys2Proof.Machine

/-! Responses keep to the widths of their ports (spec/20_memory.md R71, R62, R65; spec/10_state.md R39): under the invariant
every vector that is answered has at most N elements, and every symbol comes from the dictionary or from a command word. -/

namespace Sys2Proof.Machine

/-! The widths of what stands in a response. -/

theorem onPort_lt {v : Bits} {len : Nat} (h : v.length ≤ len) : (onPort v).toNat < 2 ^ len :=
  calc (onPort v).toNat ≤ pack v := Nat.mod_le _ _
    _ < 2 ^ v.length := pack_lt_two_pow_length v
    _ ≤ 2 ^ len := Nat.pow_le_pow_right (by decide) h

theorem onVal_le (x : Nat) : (onVal x).toNat ≤ x := Nat.mod_le _ _

theorem weight_le_length (v : Bits) : weight v ≤ v.length := List.count_le_length

theorem tagsByte_lt (synFb cwFb zs v : Bool) : (tagsByte synFb cwFb zs v).toNat < 16 := by
  revert synFb cwFb zs v; decide

/-- A response within the ports that the capacities give (20_memory R71). A field that a command does not name is zero, so
it fits. -/
structure Response.Fits (c : Caps) (r : Response) : Prop where
  dout : r.dout.toNat < 2 ^ c.nMax := by exact Nat.two_pow_pos _
  sym : r.sym.toNat < 2 ^ c.symw := by exact Nat.two_pow_pos _
  tags : r.tags.toNat < 16 := by exact Nat.zero_lt_succ _

/-! The lengths of what the memories hold. -/

/-- Every error vector in the table is one of the candidates. -/
def SynTable.EntriesFrom (candidate : Nat → Bits) (t : SynTable) : Prop :=
  ∀ a e, t.st.read a = some e → ∃ i, e = candidate i

theorem SynTable.EntriesFrom.tryCandidate {candidate : Nat → Bits} {t : SynTable} (ht : t.EntriesFrom candidate)
    (hwf : t.st.wf) (h : Matrix) (i : Nat) : (tryCandidate h t (candidate i)).EntriesFrom candidate := by
  rcases tryCandidate_cases h t (candidate i) with ⟨-, -, he⟩ | ⟨-, he⟩ <;> rw [he]
  · intro a e hread
    rw [Memory.read_write _ hwf] at hread
    split at hread
    · cases hread; exact ⟨i, rfl⟩
    · exact ht a e hread
  · exact ht

theorem buildSyndromeTable_entriesFrom (enum : Nat → Nat → Nat → Bits) (h : Matrix) (n k : Nat) :
    (buildSyndromeTable enum h n k).EntriesFrom (enum k n) := by
  obtain ⟨-, hfrom⟩ : (buildSyndromeTable enum h n k).st.wf ∧ (buildSyndromeTable enum h n k).EntriesFrom (enum k n) :=
    buildSyndromeTable_induct (fun _ t => t.st.wf ∧ t.EntriesFrom (enum k n))
      ⟨List.Pairwise.nil, fun _ _ hread => nomatch hread⟩
      fun i _ ⟨hwf, ht⟩ => ⟨tryCandidate_st_wf hwf, ht.tryCandidate hwf h i⟩
  exact hfrom

theorem transpose_shape {m : Matrix} {r c : Nat} (h : hasShape m r c = true) : hasShape (transpose m) c r = true := by
  obtain ⟨hrows, hcols, -⟩ := hasShape_iff.mp h
  simp [hasShape, transpose, hrows, hcols]

theorem State.errAt_ok {s : State} {t : Nat} {e : Bits} (h : s.errAt t = .ok e) : ∃ a, s.st.read a = some e := by
  unfold State.errAt at h
  split at h
  · cases h
  · next a _ =>
    split at h <;> cases h
    next hread => exact ⟨a, hread⟩

section

variable {s : State} (hi : s.Inv) (hp : s.phase ≠ .empty)
include hi hp

theorem State.Inv.nVal_le : s.nVal ≤ s.caps.nMax := by
  obtain ⟨⟨-, -, hn, -⟩, -⟩ := hi.built hp
  exact hn

theorem State.Inv.colsOf_le (sel : Sel) : colsOf s.kVal s.nVal sel ≤ s.caps.nMax := by
  obtain ⟨⟨-, hkn, hn, -⟩, -⟩ := hi.built hp
  cases sel <;> simp only [colsOf] <;> omega

theorem State.Inv.view_shape (sel : Sel) :
    hasShape (viewOf s.g s.h sel) (rowsOf s.kVal s.nVal sel) (colsOf s.kVal s.nVal sel) = true := by
  obtain ⟨-, ⟨hg, hh, -⟩, -⟩ := hi.built hp
  have hgShape : hasShape s.g s.kVal s.nVal = true := hg ▸ buildGenerator_shape _ _
  have hhShape : hasShape s.h s.nVal (s.nVal - s.kVal) = true := hh ▸ buildParityCheck_shape _ _ _
  cases sel with
  | g => exact hgShape
  | h => exact hhShape
  | gt => exact transpose_shape hgShape
  | ht => exact transpose_shape hhShape

theorem State.Inv.read_length {a : Nat} {e : Bits} (h : s.st.read a = some e) : e.length = s.nVal := by
  obtain ⟨-, ⟨-, -, htable, -⟩, -⟩ := hi.built hp
  have hfrom := buildSyndromeTable_entriesFrom s.enumOf s.h s.nVal s.kVal
  rw [← htable] at hfrom
  obtain ⟨i, rfl⟩ := hfrom a e h
  exact length_enumOf _ _ _ _

theorem State.Inv.entry_length {e : Entry} (h : e ∈ s.cd) : e.cw.length = s.nVal := by
  obtain ⟨-, ⟨hg, -⟩, -, -, -, hentries⟩ := hi.built hp
  obtain ⟨hcw, -⟩ := hentries e h
  rw [hcw, length_vecmat, hg]
  rfl

theorem State.Inv.entry_sym_lt {e : Entry} (h : e ∈ s.cd) : e.sym.toNat < 2 ^ s.caps.symw := by
  obtain ⟨-, -, -, -, -, hentries⟩ := hi.built hp
  obtain ⟨-, hsym⟩ := hentries e h
  exact hsym

/-- The error vector that a decode chooses, whichever way, has N elements. -/
theorem State.Inv.chosen_length {y : Bits} {t : State} {c : Choice} (h : locateError y s = .ok (c, t)) :
    c.err.length = s.nVal := by
  obtain ⟨m, -, hm⟩ := locateError_ok h
  rcases chooseError_ok hm with ⟨-, rfl, -⟩ | ⟨-, e, he, rfl, -⟩ | ⟨-, -, -, e, he, rfl, -⟩
  · exact length_zeros _
  · exact hi.read_length hp he
  · obtain ⟨a, ha⟩ := State.errAt_ok he
    exact hi.read_length hp ha

/-- The symbol that a decode answers is one of the dictionary's. -/
theorem State.Inv.resolved_lt {x : Bits} {t : State} {q : Symbol} {fb2 : Bool}
    (h : resolveSymbol x s = .ok ((q, fb2), t)) : q.toNat < 2 ^ s.caps.symw := by
  obtain ⟨cd, hcd, hq⟩ := resolveSymbol_ok h
  obtain ⟨rfl, -⟩ := State.dictionary_eq_some hcd
  obtain ⟨-, -, e, he, -, rfl⟩ | ⟨-, -, -, -, e, he, rfl⟩ := hq
  · exact hi.entry_sym_lt hp he
  · exact hi.entry_sym_lt hp (List.mem_of_getElem? he)

/-- The vectors of a decode keep to N_MAX elements. -/
theorem State.Inv.decode_le {y : Bits} {t : State} {c : Choice} (h : locateError y s = .ok (c, t)) :
    (vadd c.err y).length ≤ s.caps.nMax ∧ weight c.err ≤ s.caps.nMax := by
  have hlen := hi.chosen_length hp h
  have hn := hi.nVal_le hp
  constructor
  · rw [length_vadd]; omega
  · have := weight_le_length c.err; omega

end

/-! Responses. -/

theorem errorResponse_fits (c : Caps) (e : ErrorCode) : (errorResponse e).Fits c := {}

theorem OkEffect.response_fits {i : Instr} {s t : State} {r : Response} (h : OkEffect i s t) (hi : s.Inv)
    (hwf : i.wellFormed s.caps.symw = true) (hr : t.resp = some r) : r.Fits s.caps := by
  cases i with
  | nop => subst h; cases hr; exact {}
  | reset => subst h; cases hr; exact {}
  | construct k n => obtain ⟨-, -, -, -, -, rfl⟩ := h; cases hr; exact {}
  | ldsym len sym =>
    obtain ⟨hp, -, g, cd, hg, -, -, -, rfl⟩ := h
    obtain rfl := State.genMatrix_eq_some hg
    have hne : s.phase ≠ .empty := by simp [hp]
    obtain ⟨-, hcols, -⟩ := hasShape_iff.mp (hi.view_shape hne .g)
    cases hr
    exact { dout := onPort_lt (by rw [length_vecmat]; exact hcols.trans_le (hi.nVal_le hne))
            sym := of_decide_eq_true hwf }
  | sealCode => obtain ⟨-, rfl⟩ := h; cases hr; exact {}
  | mul len sel =>
    obtain ⟨hp, -, m, hm, rfl⟩ := h
    have hne := ne_empty_of_allowed hp rfl
    rw [hi.view_eq hne] at hm
    cases hm
    obtain ⟨-, hcols, -⟩ := hasShape_iff.mp (hi.view_shape hne sel)
    cases hr
    exact { dout := onPort_lt (by rw [length_vecmat]; exact hcols.trans_le (hi.colsOf_le hne sel)) }
  | wt len => obtain ⟨-, -, rfl⟩ := h; cases hr; exact {}
  | rdm sel idx =>
    obtain ⟨hp, -, m, row, hm, hrow, rfl⟩ := h
    have hne := ne_empty_of_allowed hp rfl
    rw [hi.view_eq hne] at hm
    cases hm
    obtain ⟨-, -, hrows⟩ := hasShape_iff.mp (hi.view_shape hne sel)
    cases hr
    exact { dout := onPort_lt ((hrows row (List.mem_of_getElem? hrow)).trans_le (hi.colsOf_le hne sel)) }
  | rdst idx =>
    obtain ⟨hp, -, ⟨e, he, rfl⟩ | ⟨-, rfl⟩⟩ := h <;> cases hr
    · have hne := ne_empty_of_allowed hp rfl
      exact { dout := onPort_lt ((hi.read_length hne he).trans_le (hi.nVal_le hne)), tags := tagsByte_lt _ _ _ _ }
    · exact {}
  | rdsto idx =>
    obtain ⟨hp, -, a, e, -, he, rfl⟩ := h
    have hne := ne_empty_of_allowed hp rfl
    cases hr
    exact { dout := onPort_lt ((hi.read_length hne he).trans_le (hi.nVal_le hne)), tags := tagsByte_lt _ _ _ _ }
  | rdcd idx =>
    obtain ⟨hp, -, cd, e, hcd, he, rfl⟩ := h
    have hne := ne_empty_of_allowed hp rfl
    obtain ⟨rfl, -⟩ := State.dictionary_eq_some hcd
    have hmem := List.mem_of_getElem? he
    cases hr
    exact { dout := onPort_lt ((hi.entry_length hne hmem).trans_le (hi.nVal_le hne))
            sym := hi.entry_sym_lt hne hmem }
  | rdreg idx => obtain ⟨_, -, rfl⟩ := h; cases hr; exact {}
  | dec len =>
    obtain ⟨hp, -, c, u, hc, rfl⟩ := h
    obtain ⟨hdout, -⟩ := hi.decode_le (ne_empty_of_allowed hp rfl) hc
    cases hr
    exact { dout := onPort_lt hdout, tags := tagsByte_lt _ _ _ _ }
  | decl len =>
    obtain ⟨hp, -, c, u, q, fb2, u', hc, hq, rfl⟩ := h
    have hne : s.phase ≠ .empty := by simp [hp]
    obtain ⟨hdout, -⟩ := hi.decode_le hne hc
    obtain rfl := locateError_draws hc
    have hsym := (State.inv_takeDraws.mpr hi).resolved_lt (by rw [takeDraws_eq]; exact hne) hq
    rw [takeDraws_eq] at hsym
    cases hr
    exact { dout := onPort_lt hdout, sym := hsym, tags := tagsByte_lt _ _ _ _ }

/-- WT, DEC and DECL answer a Hamming weight of a vector within N_MAX. -/
theorem OkEffect.val_le {i : Instr} {s t : State} {r : Response} (h : OkEffect i s t) (hi : s.Inv)
    (hr : t.resp = some r) (hcounts : ∃ len, i = .wt len ∨ i = .dec len ∨ i = .decl len) :
    r.val.toNat ≤ s.caps.nMax := by
  obtain ⟨len, rfl | rfl | rfl⟩ := hcounts
  · obtain ⟨-, hlen, rfl⟩ := h
    cases hr
    exact (onVal_le _).trans ((weight_le_length _).trans ((length_unpack _ _).trans_le hlen))
  · obtain ⟨hp, -, c, u, hc, rfl⟩ := h
    obtain ⟨-, hweight⟩ := hi.decode_le (ne_empty_of_allowed hp rfl) hc
    cases hr
    exact (onVal_le _).trans hweight
  · obtain ⟨hp, -, c, u, q, fb2, u', hc, -, rfl⟩ := h
    obtain ⟨-, hweight⟩ := hi.decode_le (by simp [hp]) hc
    cases hr
    exact (onVal_le _).trans hweight

/-- Settles O46: an error answers zeros beside its code, and what a command that ends OK answers fits. -/
theorem responsesFitTheirPorts : Obligations.ResponsesFitTheirPorts := by
  intro i s t r hi hwf h hr
  rcases exec_next_cases h with hok | herr
  · obtain ⟨hdout, hsym, htags⟩ := hok.response_fits hi hwf hr
    exact ⟨hdout, hsym, htags, hok.val_le hi hr⟩
  · obtain ⟨e, rfl, -⟩ := herr.status hr
    obtain ⟨hdout, hsym, htags⟩ := errorResponse_fits s.caps e
    exact ⟨hdout, hsym, htags, fun _ => Nat.zero_le _⟩

end Sys2Proof.Machine

/-! Words and their commands (spec/30_encoding.md R90 to R110): what each format accepts, as an `↔`, from which the two
round trips and the agreement with the table of R100 follow. -/

namespace Sys2Proof

/-! The fields of a word determine it. -/

theorem bytes_append_eq_iff {a b c d : BitVec 8} {w : Word} :
    a ++ b ++ c ++ d = w ↔ opField w = a ∧ byte2 w = b ∧ byte1 w = c ∧ byte0 w = d := by
  constructor
  · rintro rfl
    obtain ⟨ha, hb, hc, hd, -⟩ := fields_of_bytes a b c d
    exact ⟨ha, hb, hc, hd⟩
  · rintro ⟨rfl, rfl, rfl, rfl⟩
    exact word_of_bytes w

theorem half_append_eq_iff {a b : BitVec 8} {h : BitVec 16} {w : Word} :
    a ++ b ++ h = w ↔ opField w = a ∧ byte2 w = b ∧ half0 w = h := by
  constructor
  · rintro rfl
    exact fields_of_half a b h
  · rintro ⟨rfl, rfl, rfl⟩
    exact word_of_half w

theorem op_append_eq_iff {a : BitVec 8} {x : BitVec 24} {w : Word} :
    a ++ x = w ↔ opField w = a ∧ low24 w = x := by
  have ha := a.isLt; have hx := x.isLt; have hw := w.isLt
  simp only [← BitVec.toNat_inj, opField, low24, BitVec.extractLsb'_toNat, toNat_append_add, Nat.shiftRight_eq_div_pow]
  omega

theorem low24_eq_bytes (w : Word) : low24 w = byte2 w ++ byte1 w ++ byte0 w := by
  obtain ⟨-, -, -, -, -, hlow⟩ := fields_of_bytes (opField w) (byte2 w) (byte1 w) (byte0 w)
  rwa [word_of_bytes] at hlow

theorem low24_eq_half (w : Word) : low24 w = byte2 w ++ half0 w := by
  have hw := w.isLt
  apply BitVec.eq_of_toNat_eq
  simp only [low24, byte2, half0, BitVec.extractLsb'_toNat, toNat_append_add, Nat.shiftRight_eq_div_pow]
  omega

theorem selOfByte_eq_some_iff {b : BitVec 8} {sel : Sel} : selOfByte b = some sel ↔ b = sel.byte :=
  ⟨fun h => (byte_of_selOfByte h).symm, fun h => h ▸ selOfByte_byte sel⟩

/-! What the decoder of each format accepts, and what it answers (R91 to R95). -/

section

variable {w : Word} {j : Instr}

@[simp] theorem decodeZ_eq_ok_iff {i : Instr} : decodeZ i w = .ok j ↔ low24 w = 0 ∧ i = j := by
  unfold decodeZ
  split <;> simp_all

@[simp] theorem decodeP_eq_ok_iff {i : BitVec 8 → BitVec 8 → Instr} :
    decodeP i w = .ok j ↔ byte0 w = 0 ∧ i (byte2 w) (byte1 w) = j := by
  unfold decodeP
  split <;> simp_all

@[simp] theorem decodeVSel_eq_ok_iff {i : BitVec 8 → Sel → Instr} :
    decodeVSel i w = .ok j ↔ byte0 w = 0 ∧ ∃ sel, byte1 w = sel.byte ∧ i (byte2 w) sel = j := by
  simp only [decodeVSel, ← selOfByte_eq_some_iff]
  split
  · split <;> simp_all
  · simp_all

@[simp] theorem decodeV_eq_ok_iff {i : BitVec 8 → Instr} :
    decodeV i w = .ok j ↔ byte0 w = 0 ∧ byte1 w = 0 ∧ i (byte2 w) = j := by
  unfold decodeV
  split
  · split <;> simp_all
  · simp_all

@[simp] theorem decodeXSel_eq_ok_iff {i : Sel → BitVec 16 → Instr} :
    decodeXSel i w = .ok j ↔ ∃ sel, byte2 w = sel.byte ∧ i sel (half0 w) = j := by
  simp only [decodeXSel, ← selOfByte_eq_some_iff]
  split <;> simp_all

@[simp] theorem decodeX_eq_ok_iff {i : BitVec 16 → Instr} : decodeX i w = .ok j ↔ byte2 w = 0 ∧ i (half0 w) = j := by
  unfold decodeX
  split <;> simp_all

@[simp] theorem decodeS_eq_ok_iff {symw : Nat} {i : BitVec 8 → Symbol → Instr} :
    decodeS symw i w = .ok j ↔ symbolFits symw (half0 w) = true ∧ i (byte2 w) (half0 w) = j := by
  unfold decodeS
  split <;> simp_all

end

/-! The decoder is, for the op of a command, the decoder of that command's format (R100). -/

/-- The decoder of the format that R100 gives a command. -/
@[simp] def Instr.formatDecoder (symw : Nat) : Instr → Word → Except Reserved Instr
  | .nop => decodeZ .nop
  | .reset => decodeZ .reset
  | .construct _ _ => decodeP .construct
  | .ldsym _ _ => decodeS symw .ldsym
  | .sealCode => decodeZ .sealCode
  | .mul _ _ => decodeVSel .mul
  | .wt _ => decodeV .wt
  | .rdm _ _ => decodeXSel .rdm
  | .rdst _ => decodeX .rdst
  | .rdsto _ => decodeX .rdsto
  | .rdcd _ => decodeX .rdcd
  | .rdreg _ => decodeX .rdreg
  | .dec _ => decodeV .dec
  | .decl _ => decodeV .decl

section

variable {symw : Nat} {w : Word} {i : Instr}

theorem decode_eq_formatDecoder (h : opField w = i.opcode) : decode symw w = i.formatDecoder symw w := by
  unfold decode
  rw [h]
  cases i <;> rfl

theorem opField_of_decode (h : decode symw w = .ok i) : opField w = i.opcode := by
  apply BitVec.eq_of_toNat_eq
  unfold decode at h
  split at h
  case h_1 hop | h_2 hop | h_5 hop => rw [decodeZ_ok h]; exact hop
  case h_3 hop => rw [decodeP_ok h]; exact hop
  case h_4 hop => obtain ⟨-, rfl⟩ := decodeS_ok h; exact hop
  case h_6 hop => obtain ⟨sel, rfl⟩ := decodeVSel_ok h; exact hop
  case h_7 hop | h_13 hop | h_14 hop => rw [decodeV_ok h]; exact hop
  case h_8 hop => obtain ⟨sel, rfl⟩ := decodeXSel_ok h; exact hop
  case h_9 hop | h_10 hop | h_11 hop | h_12 hop => rw [decodeX_ok h]; exact hop
  case h_15 => cases h

theorem decode_eq_ok_iff_formatDecoder :
    decode symw w = .ok i ↔ opField w = i.opcode ∧ i.formatDecoder symw w = .ok i := by
  constructor
  · intro h
    have hop := opField_of_decode h
    exact ⟨hop, decode_eq_formatDecoder hop ▸ h⟩
  · rintro ⟨hop, h⟩
    rw [decode_eq_formatDecoder hop, h]

/-- The two round trips at once. Both sides say the same of the fields of `w`: the op, each operand, and the zeros. -/
theorem decode_eq_ok_iff : decode symw w = .ok i ↔ encode i = w ∧ i.wellFormed symw = true := by
  rw [decode_eq_ok_iff_formatDecoder]
  cases i with
  | nop | reset | sealCode =>
    rw [encode, op_append_eq_iff]
    simp [Instr.opcode, Instr.wellFormed]
  | construct _ _ | mul _ _ | wt _ | dec _ | decl _ =>
    rw [encode, bytes_append_eq_iff]
    simp [Instr.opcode, Instr.wellFormed, and_assoc, and_comm, and_left_comm]
  | ldsym len sym =>
    rw [encode, half_append_eq_iff]
    simp only [Instr.formatDecoder, decodeS_eq_ok_iff, Instr.ldsym.injEq, Instr.wellFormed]
    constructor
    · rintro ⟨hop, hfits, rfl, rfl⟩
      exact ⟨⟨hop, rfl, rfl⟩, hfits⟩
    · rintro ⟨⟨hop, rfl, rfl⟩, hfits⟩
      exact ⟨hop, hfits, rfl, rfl⟩
  | rdm _ _ | rdst _ | rdsto _ | rdcd _ | rdreg _ =>
    rw [encode, half_append_eq_iff]
    simp [Instr.opcode, Instr.wellFormed]

end

/-- Settles O1: the command's word meets what its format accepts. -/
theorem decodeOfEncodeIsTheInstruction : Obligations.DecodeOfEncodeIsTheInstruction :=
  fun _ _ hwf => decode_eq_ok_iff.mpr ⟨rfl, hwf⟩

/-- Settles O2: what a format accepts leaves no bit of the word free. -/
theorem decodedWordIsItsEncoding : Obligations.DecodedWordIsItsEncoding :=
  fun _ _ _ => decode_eq_ok_iff.mp

/-- Settles O4: seventeen words and four reserved ones, decoded by evaluation. -/
theorem workedEncodingsDecode : Obligations.WorkedEncodingsDecode := by
  unfold Obligations.WorkedEncodingsDecode
  decide

/-! The table of match and mask (R100): a row's pattern is its op above zeros, and its mask is eight ones above the mask
of its format. -/

/-- The bits below the op that a command's row of R100 requires to be zero, written by the fields of its format. -/
def Instr.operandMask (symw : Nat) : Instr → BitVec 24
  | .nop | .reset | .sealCode => BitVec.allOnes 24
  | .construct _ _ => 0x00#8 ++ 0x00#8 ++ BitVec.allOnes 8
  | .ldsym _ _ => 0x00#8 ++ ~~~ BitVec.ofNat 16 (2 ^ symw - 1)
  | .mul _ _ => 0x00#8 ++ 0xFC#8 ++ BitVec.allOnes 8
  | .wt _ | .dec _ | .decl _ => 0x00#8 ++ BitVec.allOnes 8 ++ BitVec.allOnes 8
  | .rdm _ _ => 0xFC#8 ++ 0x0000#16
  | .rdst _ | .rdsto _ | .rdcd _ | .rdreg _ => BitVec.allOnes 8 ++ 0x0000#16

/-- The row of a command. -/
def Instr.row (symw : Nat) (i : Instr) : OpRow :=
  ⟨i.mnemonic, i.opcode ++ 0#24, BitVec.allOnes 8 ++ i.operandMask symw⟩

/-- One command of each row of R100, in the table's order. -/
def rowCommands : List Instr :=
  [.nop, .reset, .construct 0 0, .ldsym 0 0, .sealCode, .mul 0 .g, .wt 0, .rdm .g 0, .rdst 0, .rdsto 0, .rdcd 0, .rdreg 0,
    .dec 0, .decl 0]

theorem ldsymMask_eq (symw : Nat) :
    ldsymMask symw = BitVec.allOnes 8 ++ (0x00#8 ++ ~~~ BitVec.ofNat 16 (2 ^ symw - 1)) := by
  symm
  rw [op_append_eq_iff, low24_eq_half]
  refine ⟨?_, congrArg₂ _ ?_ ?_⟩
  · simp [opField, ldsymMask, BitVec.extractLsb'_or, BitVec.extractLsb'_and]
  · simp [byte2, ldsymMask, BitVec.extractLsb'_or, BitVec.extractLsb'_and]
  · have hmask : half0 (BitVec.ofNat 32 (2 ^ symw - 1)) = BitVec.ofNat 16 (2 ^ symw - 1) :=
      (BitVec.setWidth_eq_extractLsb' (by decide)).symm.trans (BitVec.setWidth_ofNat_of_le (by decide) _)
    rw [← hmask, ← BitVec.allOnes_and (x := ~~~ half0 _)]
    simp [half0, ldsymMask, BitVec.extractLsb'_or, BitVec.extractLsb'_and, BitVec.extractLsb'_not_of_lt]

theorem opcodeRows_eq (symw : Nat) : opcodeRows symw = rowCommands.map (Instr.row symw) := by
  simp only [opcodeRows, ldsymMask_eq, rowCommands, List.map, Instr.row, Instr.operandMask]
  rfl

theorem row_mem_opcodeRows (symw : Nat) (i : Instr) : i.row symw ∈ opcodeRows symw := by
  rw [opcodeRows_eq]
  cases i <;>
    simp only [rowCommands, List.map, List.mem_cons, Instr.row, Instr.mnemonic, Instr.opcode, Instr.operandMask,
      true_or, or_true]

/-! Matching a row, by fields. -/

theorem append_eq_zero_iff {v u : Nat} {x : BitVec v} {y : BitVec u} : x ++ y = 0 ↔ x = 0 ∧ y = 0 := by
  simp [← BitVec.toNat_inj]

/-- A vector has no bit at or above `s` exactly when it is below `2 ^ s`. -/
theorem and_not_lowMask_eq_zero_iff {v s : Nat} (x : BitVec v) :
    x &&& ~~~ BitVec.ofNat v (2 ^ s - 1) = 0 ↔ x.toNat < 2 ^ s := by
  have hbit (i : Nat) : (x &&& ~~~ BitVec.ofNat v (2 ^ s - 1)).getLsbD i = (x.getLsbD i && decide (s ≤ i)) := by
    by_cases hi : i < v
    · rw [BitVec.getLsbD_and, BitVec.getLsbD_not, BitVec.getLsbD_ofNat, Nat.testBit_two_pow_sub_one]
      simp [hi, ← decide_not]
    · simp [BitVec.getLsbD_of_ge, not_lt.mp hi]
  constructor
  · intro h
    refine Nat.lt_pow_two_of_testBit _ fun i hi => ?_
    have hzero := hbit i
    rw [h, decide_eq_true hi, Bool.and_true] at hzero
    exact hzero.symm.trans BitVec.getLsbD_zero
  · intro h
    refine BitVec.eq_of_getLsbD_eq fun i _ => ?_
    rw [hbit]
    by_cases hs : s ≤ i
    · have : x.getLsbD i = false := Nat.testBit_lt_two_pow (h.trans_le (Nat.pow_le_pow_right (by decide) hs))
      simp [this]
    · simp [hs]

/-- The selectors are the bytes below 4 (R105). -/
theorem and_selMask_eq_zero_iff {b : BitVec 8} : b &&& 0xFC#8 = 0 ↔ ∃ sel, b = Sel.byte sel := by
  rw [show 0xFC#8 = ~~~ BitVec.ofNat 8 (2 ^ 2 - 1) from rfl, and_not_lowMask_eq_zero_iff]
  constructor
  · intro h
    obtain rfl | rfl | rfl | rfl : b = 0 ∨ b = 1 ∨ b = 2 ∨ b = 3 := by bv_omega
    · exact ⟨.g, rfl⟩
    · exact ⟨.h, rfl⟩
    · exact ⟨.gt, rfl⟩
    · exact ⟨.ht, rfl⟩
  · rintro ⟨sel, rfl⟩
    cases sel <;> decide

section

variable {symw : Nat} {w : Word}

theorem matches_row_iff {i : Instr} :
    w &&& (i.row symw).mask = (i.row symw).pattern ↔ opField w = i.opcode ∧ low24 w &&& i.operandMask symw = 0 := by
  rw [eq_comm, Instr.row, op_append_eq_iff, opField, low24, BitVec.extractLsb'_and, BitVec.extractLsb'_and,
    BitVec.extractLsb'_append_eq_left, BitVec.extractLsb'_append_eq_right, BitVec.and_allOnes]
  rfl

theorem low24_and_bytes_eq_zero_iff {a b c : BitVec 8} :
    low24 w &&& (a ++ b ++ c) = 0 ↔ byte2 w &&& a = 0 ∧ byte1 w &&& b = 0 ∧ byte0 w &&& c = 0 := by
  rw [low24_eq_bytes, BitVec.and_append, BitVec.and_append, ← and_assoc]
  exact append_eq_zero_iff.trans (and_congr_left fun _ => append_eq_zero_iff)

theorem low24_and_half_eq_zero_iff {a : BitVec 8} {h : BitVec 16} :
    low24 w &&& (a ++ h) = 0 ↔ byte2 w &&& a = 0 ∧ half0 w &&& h = 0 := by
  rw [low24_eq_half, BitVec.and_append]
  exact append_eq_zero_iff

theorem exists_formatDecoder_ok_iff (i : Instr) :
    (∃ j, i.formatDecoder symw w = .ok j) ↔ low24 w &&& i.operandMask symw = 0 := by
  cases i with
  | nop | reset | sealCode =>
    rw [Instr.operandMask, BitVec.and_allOnes]
    simp
  | construct k n =>
    rw [Instr.operandMask, low24_and_bytes_eq_zero_iff, BitVec.and_allOnes]
    simp
  | ldsym len sym =>
    rw [Instr.operandMask, low24_and_half_eq_zero_iff, and_not_lowMask_eq_zero_iff]
    simp [symbolFits]
  | mul len sel =>
    rw [Instr.operandMask, low24_and_bytes_eq_zero_iff, BitVec.and_allOnes, and_selMask_eq_zero_iff]
    simp [and_comm]
  | wt len | dec len | decl len =>
    rw [Instr.operandMask, low24_and_bytes_eq_zero_iff, BitVec.and_allOnes, BitVec.and_allOnes]
    simp [and_comm]
  | rdm sel idx =>
    rw [Instr.operandMask, low24_and_half_eq_zero_iff, and_selMask_eq_zero_iff]
    simp
  | rdst idx | rdsto idx | rdcd idx | rdreg idx =>
    rw [Instr.operandMask, low24_and_half_eq_zero_iff, BitVec.and_allOnes]
    simp

theorem exists_decode_ok_iff_matches_row {i : Instr} (hop : opField w = i.opcode) :
    (∃ j, decode symw w = .ok j) ↔ w &&& (i.row symw).mask = (i.row symw).pattern := by
  rw [decode_eq_formatDecoder hop, exists_formatDecoder_ok_iff, matches_row_iff]
  exact (and_iff_right hop).symm

theorem matches_row_of_decode {i : Instr} (h : decode symw w = .ok i) :
    w &&& (i.row symw).mask = (i.row symw).pattern :=
  (exists_decode_ok_iff_matches_row (opField_of_decode h)).mp ⟨i, h⟩

theorem exists_decode_ok_of_matches {row : OpRow} (hrow : row ∈ opcodeRows symw) (h : w &&& row.mask = row.pattern) :
    ∃ j, decode symw w = .ok j := by
  rw [opcodeRows_eq] at hrow
  obtain ⟨i, -, rfl⟩ := List.mem_map.mp hrow
  obtain ⟨hop, -⟩ := matches_row_iff.mp h
  exact (exists_decode_ok_iff_matches_row hop).mpr h

/-- No two rows of the table have one op. -/
theorem opcode_injOn_rowCommands {i i' : Instr} (hi : i ∈ rowCommands) (hi' : i' ∈ rowCommands)
    (h : i.opcode = i'.opcode) : i = i' :=
  List.inj_on_of_nodup_map (f := Instr.opcode) (by decide) hi hi' h

theorem opcodeRows_disjoint {row row' : OpRow} (hrow : row ∈ opcodeRows symw) (hrow' : row' ∈ opcodeRows symw)
    (h : w &&& row.mask = row.pattern) (h' : w &&& row'.mask = row'.pattern) : row = row' := by
  rw [opcodeRows_eq] at hrow hrow'
  obtain ⟨i, hi, rfl⟩ := List.mem_map.mp hrow
  obtain ⟨i', hi', rfl⟩ := List.mem_map.mp hrow'
  obtain ⟨hop, -⟩ := matches_row_iff.mp h
  obtain ⟨hop', -⟩ := matches_row_iff.mp h'
  rw [opcode_injOn_rowCommands hi hi' (hop.symm.trans hop')]

end

/-- Settles O3: a row is matched where the op is the row's and the format accepts the rest, and no two rows share an op. -/
theorem decodeAgreesWithOpcodeRows : Obligations.DecodeAgreesWithOpcodeRows := by
  intro symw w _
  refine ⟨fun i h => ⟨i.row symw, row_mem_opcodeRows symw i, rfl, matches_row_of_decode h⟩,
    fun _ hrow _ hrow' => opcodeRows_disjoint hrow hrow', ?_⟩
  constructor
  · rintro ⟨why, hwhy⟩ row hrow h
    obtain ⟨i, hi⟩ := exists_decode_ok_of_matches hrow h
    cases hwhy.symm.trans hi
  · intro h
    cases hd : decode symw w with
    | error why => exact ⟨why, rfl⟩
    | ok i => exact absurd (matches_row_of_decode hd) (h _ (row_mem_opcodeRows symw i))

end Sys2Proof

/-! The laws of the vector-matrix product and of the transpose (spec/40_gf2_algebra.md R135, R140, R141): each equation of
products is compared element by element, and an element of a product is the parity of one dot product. -/

namespace Sys2Proof.Machine

@[simp] theorem vadd_cons (a b : Bool) (u v : Bits) : vadd (a :: u) (b :: v) = (a ^^ b) :: vadd u v := by
  simp [vadd]

theorem parity_xor_mul (a b c : Bool) :
    parity ((a ^^ b).toNat * c.toNat) = (parity (a.toNat * c.toNat) ^^ parity (b.toNat * c.toNat)) := by
  revert a b c; decide

/-- Modulo 2, a dot product is additive in its first vector. -/
theorem parity_dot_vadd {u v : Bits} (w : Bits) (h : u.length = v.length) :
    parity (dot (vadd u v) w) = (parity (dot u w) ^^ parity (dot v w)) := by
  induction u generalizing v w with
  | nil => rw [List.eq_nil_of_length_eq_zero h.symm]; rfl
  | cons a u ih =>
    obtain ⟨b, v, rfl⟩ := List.exists_cons_of_length_eq_add_one h.symm
    cases w with
    | nil => simp
    | cons c w =>
      simp only [vadd_cons, dot_cons, parity_add, parity_xor_mul, ih w (Nat.succ.inj h), Bool.xor_assoc,
        Bool.xor_left_comm]

theorem vecmat_replicate_false (r : Nat) (m : Matrix) :
    vecmat (List.replicate r false) m = List.replicate m.cols false := by
  apply List.ext_getElem
  · simp
  · intro j _ _
    rw [getElem_vecmat, dot_replicate_false, parity_zero, List.getElem_replicate]

theorem vecmat_vadd {u v : Bits} (m : Matrix) (h : u.length = v.length) :
    vecmat (vadd u v) m = vadd (vecmat u m) (vecmat v m) := by
  apply List.ext_getElem
  · simp
  · intro j _ _
    rw [getElem_vadd, getElem_vecmat, getElem_vecmat, getElem_vecmat, parity_dot_vadd _ h]

/-- The product of e_i picks row i. -/
theorem vecmat_unitVec {m : Matrix} {r c i : Nat} (hm : hasShape m r c = true) (hi : i < r) :
    some (vecmat (unitVec r i) m) = m.rows[i]? := by
  obtain ⟨rfl, hcols, hrows⟩ := hasShape_iff.mp hm
  have hrow : m.rows[i].length = m.cols := hcols ▸ hrows _ (List.getElem_mem hi)
  rw [List.getElem?_eq_getElem hi, Option.some_inj]
  apply List.ext_getElem
  · rw [length_vecmat, hrow]
  · intro j _ hj
    have hcol : i < (column m j).length := by rwa [length_column]
    rw [getElem_vecmat, ← length_column m j, dot_unitVec hcol, parity_toNat, getElem_column, entry_eq_getElem m hi hj]

/-- Settles O51, from one lemma per law of R135. -/
theorem vecmatIsLinear : Obligations.VecmatIsLinear := by
  intro m r c hm
  obtain ⟨-, rfl, -⟩ := hasShape_iff.mp hm
  exact ⟨vecmat_replicate_false r m, fun _ hi => vecmat_unitVec hm hi,
    fun _ _ hu hv => vecmat_vadd m (hu.trans hv.symm)⟩

theorem entry_transpose {m : Matrix} {r c i j : Nat} (hm : hasShape m r c = true) (hi : i < r) (hj : j < c) :
    entry (transpose m) j i = entry m i j := by
  obtain ⟨rfl, rfl, -⟩ := hasShape_iff.mp hm
  simp [entry, transpose, column, List.getD_eq_getElem?_getD, hi, hj]

/-- Settles O55: two transposes have the shape of the matrix again, and swap the indices of each element twice. -/
theorem transposeSwapsIndices : Obligations.TransposeSwapsIndices := by
  intro m r c _ hm
  have hmT := transpose_shape hm
  refine ⟨hmT, fun _ _ => entry_transpose hm, matrix_ext (transpose_shape hmT) hm fun i j hi hj => ?_⟩
  rw [entry_transpose hmT hj hi, entry_transpose hm hi hj]

end Sys2Proof.Machine

/-! The laws of the Hamming weight (spec/40_gf2_algebra.md R145, R147): a weight is a count, and the weight of a sum follows
by recursion on the two vectors. -/

namespace Sys2Proof.Machine

theorem weight_map {α : Type} (f : α → Bool) (l : List α) : weight (l.map f) = l.countP f := by
  rw [weight, List.count, List.countP_map]
  exact congrArg (List.countP · l) (funext fun a => beq_true (f a))

theorem weight_eq_zero_iff {v : Bits} : weight v = 0 ↔ v = List.replicate v.length false := by
  simp [weight, List.count_eq_zero, List.eq_replicate_iff]

theorem weight_unitVec {len i : Nat} (hi : i < len) : weight (unitVec len i) = 1 := by
  rw [unitVec, weight_map]
  exact List.count_eq_one_of_mem List.nodup_range (List.mem_range.mpr hi)

theorem toNat_xor_add_overlap (a b : Bool) : (a ^^ b).toNat + 2 * (a && b).toNat = a.toNat + b.toNat := by
  revert a b; decide

/-- Where both vectors are 1 their sum is 0, so each such place counts twice less. -/
theorem weight_vadd_add_overlap {u v : Bits} (h : u.length = v.length) :
    weight (vadd u v) + 2 * weight (List.zipWith (fun a b => a && b) u v) = weight u + weight v := by
  induction u generalizing v with
  | nil => rw [List.eq_nil_of_length_eq_zero h.symm]; rfl
  | cons a u ih =>
    obtain ⟨b, v, rfl⟩ := List.exists_cons_of_length_eq_add_one h.symm
    have head := toNat_xor_add_overlap a b
    have tail := ih (Nat.succ.inj h)
    simp only [vadd_cons, List.zipWith_cons_cons, weight_cons]
    omega

/-- The weight of a sum is the Hamming distance. -/
theorem weight_vadd_eq_distance (u v : Bits) : weight (vadd u v) = (u.zip v).countP fun p => p.1 != p.2 := by
  rw [vadd_eq_zipWith_xor, ← weight_map, List.zip, List.map_zipWith]

/-- Adding a vector twice changes nothing. -/
theorem vadd_vadd_cancel {u v : Bits} (h : u.length = v.length) : vadd (vadd u v) v = u := by
  apply List.ext_getElem
  · simp [h]
  · intro j _ _
    rw [getElem_vadd, getElem_vadd, Bool.xor_assoc, Bool.xor_self, Bool.xor_false]

/-- Settles O53: parity and bound of a sum's weight follow from its overlap. -/
theorem weightLaws : Obligations.WeightLaws := by
  refine ⟨fun _ => weight_eq_zero_iff, fun _ _ => weight_unitVec, fun _ _ => weight_vadd_add_overlap,
    fun u v h => ⟨?_, ?_, weight_vadd_eq_distance u v, by rw [vadd_vadd_cancel h]⟩⟩
  all_goals have := weight_vadd_add_overlap h; omega

end Sys2Proof.Machine

/-! MUL and WT past their checks (spec/40_gf2_algebra.md R134, R146). -/

namespace Sys2Proof.Machine

theorem exec_mul_of_view {len : BitVec 8} {sel : Sel} {s : State} {m : Matrix}
    (hp : s.phase = .loading ∨ s.phase = .ready) (hlen : len.toNat = s.viewRows sel) (hm : s.view sel = some m) :
    exec (.mul len sel) s = respond { dout := onPort (vecmat (s.operand len.toNat) m) } s := by
  obtain ⟨-, hfaulted, hbuilt⟩ := built_phase hp
  show execMul len sel s = _
  rw [execMul, gate_pass hfaulted hbuilt, if_neg (not_not.mpr hlen), hm, withStored_some]

/-- Settles O22: under the invariant the memories hold each view. -/
theorem mulMultipliesByTheView : Obligations.MulMultipliesByTheView := by
  intro len sel s hi hp hlen
  obtain ⟨hne, -⟩ := built_phase hp
  exact exec_mul_of_view hp (hlen.trans (viewRows_eq_rowsOf s sel).symm) (hi.view_eq hne sel)

theorem exec_wt_of_le {len : BitVec 8} {s : State} (hp : s.phase ≠ .faulted) (hlen : len.toNat ≤ s.caps.nMax) :
    exec (.wt len) s = respond { val := onVal (weight (s.operand len.toNat)) } s := by
  show execWt len s = _
  have hun : inUnfaulted s.phase = true := bne_iff_ne.mpr hp
  rw [execWt, gate_pass hp hun, if_neg (not_lt.mpr hlen)]

/-- The operand's ones are the bits of the port that are set, as its elements are those bits. -/
theorem weight_operand (s : State) (len : Nat) :
    weight (s.operand len) = (List.range len).countP fun i => s.din.getLsbD (len - 1 - i) :=
  weight_map _ _

/-- Settles O23: the weight of the operand is the count of its bits on the port. -/
theorem wtCountsTheOnes : Obligations.WtCountsTheOnes := by
  rintro len s hp hlen _ rfl
  rw [exec_wt_of_le hp hlen, weight_operand]
  rfl

end Sys2Proof.Machine

/-! The generator matrix (spec/41_generator_builder.md R162 to R167): the document's procedure writes one element of
each row, the one on the diagonal, and a codeword is the message followed by the parities that the columns of A select. -/

namespace Sys2Proof.Machine

/-- The write that `setAt` and `clearAt` share: the diagonal element of row x. -/
def writeDiagonal (b : Bool) (rows : List Bits) (x : Nat) : List Bits :=
  rows.modify x fun row => row.set x b

theorem setAt_eq_writeDiagonal : setAt = writeDiagonal true := rfl
theorem clearAt_eq_writeDiagonal : clearAt = writeDiagonal false := rfl

/-- The first m steps of the procedure have written the diagonal of the first m rows. -/
theorem getElem?_foldl_writeDiagonal (b : Bool) (rows : List Bits) (m i : Nat) :
    ((List.range m).foldl (writeDiagonal b) rows)[i]? =
      rows[i]?.map fun row => if i < m then row.set i b else row := by
  induction m with
  | zero => simp
  | succ m ih =>
    rw [List.range_succ, List.foldl_append, List.foldl_cons, List.foldl_nil, writeDiagonal, List.getElem?_modify, ih,
      Option.map_eq_map, Option.map_map]
    refine congrArg (Option.map · rows[i]?) (funext fun row => ?_)
    rcases Nat.lt_trichotomy i m with h | rfl | h
    · simp [h, h.ne', Nat.lt_succ_of_lt h]
    · simp
    · simp [h.ne, Nat.not_lt.mpr h.le, Nat.not_lt.mpr (Nat.succ_le_of_lt h)]

/-- Once the column indices reach the last row or the last column, every row of a constant matrix has its diagonal
element written; a row with no diagonal element has nothing to write. -/
theorem foldl_writeDiagonal_replicate {k c m : Nat} (b d : Bool) (hm : min k c ≤ m) :
    (List.range m).foldl (writeDiagonal b) (List.replicate k (List.replicate c d)) =
      (List.range k).map fun i => (List.replicate c d).set i b := by
  apply List.ext_getElem?
  intro i
  rw [getElem?_foldl_writeDiagonal]
  by_cases hi : i < k
  · by_cases him : i < m
    · simp [hi, him]
    · have hic : (List.replicate c d).length ≤ i := by rw [List.length_replicate]; omega
      simp [hi, List.set_eq_of_length_le hic]
  · simp [hi]

theorem set_replicate_eq_map (c i : Nat) (b d : Bool) :
    (List.replicate c d).set i b = (List.range c).map fun j => if i = j then b else d := by
  apply List.ext_getElem
  · simp
  · intro j _ _
    simp [List.getElem_set]

/-- Row i of G: e_i, then ones but at i. -/
theorem map_genEntry_eq_append {k n : Nat} (hkn : k < n) (i : Nat) :
    (List.range n).map (genEntry k i) =
      ((List.replicate n false).set i true).take k ++ (List.replicate (n - k) true).set i false := by
  have hleft : (List.range k).map (genEntry k i) = ((List.replicate n false).set i true).take k := by
    rw [List.take_set, List.take_replicate, Nat.min_eq_left hkn.le, set_replicate_eq_map]
    refine List.map_congr_left fun j hj => ?_
    simp [genEntry, List.mem_range.mp hj, eq_comm, Bool.beq_eq_decide_eq]
  have hright : ((List.range (n - k)).map (k + ·)).map (genEntry k i) = (List.replicate (n - k) true).set i false := by
    rw [set_replicate_eq_map, List.map_map]
    refine List.map_congr_left fun c _ => ?_
    simp [genEntry, aEntry, bne, Bool.beq_eq_decide_eq]
  rw [← hleft, ← hright, ← List.map_append, ← List.range_add, Nat.add_sub_cancel' hkn.le]

/-- The document's procedure, row by row. -/
theorem documentGenerator_eq_buildGenerator {k n : Nat} (hkn : k < n) : documentGenerator k n = buildGenerator k n := by
  rw [documentGenerator, setAt_eq_writeDiagonal, clearAt_eq_writeDiagonal,
    foldl_writeDiagonal_replicate true false (Nat.min_le_left k n),
    foldl_writeDiagonal_replicate false true (Nat.min_le_right k (n - k)), List.zipWith_map, List.zipWith_self,
    buildGenerator]
  exact congrArg (Matrix.mk n) (List.map_congr_left fun i _ => (map_genEntry_eq_append hkn i).symm)

/-- Settles O47: the procedure makes the same rows, and the closed form gives the elements of the two blocks. -/
theorem generatorIsTheDocumentsProcedure : Obligations.GeneratorIsTheDocumentsProcedure := by
  intro k n hkn
  refine ⟨documentGenerator_eq_buildGenerator hkn, fun i j hi hj => ?_, fun i c hi hc => ?_⟩
  · rw [entry_buildGenerator hi (by omega), genEntry, if_pos hj]
    rfl
  · rw [entry_buildGenerator hi (by omega), genEntry, if_neg (by omega), Nat.add_sub_cancel_left, aEntry]
    simp [bne, Bool.beq_eq_decide_eq]

/-- A parity bit of a codeword: column k + t of G has ones but at t, so it counts the ones of the message but at t. -/
theorem getElem?_vecmat_buildGenerator_right {k n t : Nat} {u : Bits} (hkn : k < n) (hu : u.length = k)
    (ht : t < n - k) :
    (vecmat u (buildGenerator k n))[k + t]? = some (decide ((weight u - (u.getD t false).toNat) % 2 = 1)) := by
  have hlen : k + t < (vecmat u (buildGenerator k n)).length := by rw [length_vecmat, cols_buildGenerator]; omega
  have hdot : dot u (column (buildGenerator k n) (k + t)) = weight u - (u.getD t false).toNat := by
    rw [column_buildGenerator_right hkn ht, ← hu, ← dot_offDiagonal u t, Nat.add_sub_cancel]
  rw [List.getElem?_eq_getElem hlen, getElem_vecmat, hdot]
  rfl

/-- Settles O52: G is systematic, and past the last message bit there is no bit to leave out. -/
theorem codewordInClosedForm : Obligations.CodewordInClosedForm := by
  rintro k n m hkn hm _ rfl
  refine ⟨by rw [length_vecmat, cols_buildGenerator], fun j hj => ?_,
    fun t ht _ => getElem?_vecmat_buildGenerator_right hkn hm ht, fun t ht hkt => ?_⟩
  · rw [← List.getElem?_take_of_lt hj, take_vecmat_buildGenerator hkn hm]
  · rw [getElem?_vecmat_buildGenerator_right hkn hm ht, List.getD_eq_default _ _ (hm ▸ hkt), Bool.toNat_false,
      Nat.sub_zero]

end Sys2Proof.Machine

/-! The parity-check matrix (spec/42_parity_check_builder.md R182 to R186). A column of H is a column of the A block of
G above a unit vector, so a syndrome is the sum of two vectors: the parity bits that G gives for the first k elements,
and the parity bits that stand in the vector. It is zero exactly when the two agree. -/

namespace Sys2Proof.Machine

/-- Modulo 2, a sum is zero exactly when its terms are equal. -/
theorem vadd_eq_replicate_false_iff {u v : Bits} (h : u.length = v.length) :
    vadd u v = List.replicate v.length false ↔ u = v := by
  induction u generalizing v with
  | nil => simp [List.eq_nil_of_length_eq_zero h.symm, vadd]
  | cons a u ih =>
    obtain ⟨b, v, rfl⟩ := List.exists_cons_of_length_eq_add_one h.symm
    rw [vadd_cons, List.length_cons, List.replicate_succ, List.cons_eq_cons, List.cons_eq_cons, ih (Nat.succ.inj h)]
    exact and_congr_left' bne_eq_false_iff_eq

/-- A column of H: the column of A, and under it the column of the identity. -/
theorem column_builtParityCheck_eq_append {k n j : Nat} (hkn : k < n) (hj : j < n - k) :
    column (buildParityCheck (buildGenerator k n) k n) j =
      column (buildGenerator k n) (k + j) ++ unitVec (n - k) j := by
  rw [column_builtParityCheck hkn hj, column_buildGenerator_right hkn hj]

/-- The syndrome is the sum of the parity bits computed from the first k elements and the parity bits received. -/
theorem vecmat_builtParityCheck {k n : Nat} {v : Bits} (hkn : k < n) (hv : v.length = n) :
    vecmat v (buildParityCheck (buildGenerator k n) k n) =
      vadd ((vecmat (v.take k) (buildGenerator k n)).drop k) (v.drop k) := by
  obtain ⟨hrows, -⟩ := hasShape_iff.mp (buildGenerator_shape k n)
  have hparity : (v.drop k).length = n - k := by rw [List.length_drop, hv]
  apply List.ext_getElem
  · simp [hv]
  · intro j hj _
    rw [length_vecmat, cols_buildParityCheck] at hj
    have hmsg : (v.take k).length = (column (buildGenerator k n) (k + j)).length := by
      rw [List.length_take, length_column, hrows, hv, Nat.min_eq_left hkn.le]
    have hpick : parity (dot (v.drop k) (unitVec (n - k) j)) = (v.drop k)[j] := by
      rw [dot_comm, ← hparity, dot_unitVec, parity_toNat]
    have hsplit : dot v (column (buildGenerator k n) (k + j) ++ unitVec (n - k) j) =
        dot (v.take k) (column (buildGenerator k n) (k + j)) + dot (v.drop k) (unitVec (n - k) j) := by
      rw [← dot_append hmsg, List.take_append_drop]
    rw [getElem_vecmat, column_builtParityCheck_eq_append hkn hj, hsplit, parity_add, hpick, getElem_vadd,
      List.getElem_drop (xs := vecmat _ _), getElem_vecmat]

/-- The null space of H is the codeword space. -/
theorem vecmat_builtParityCheck_eq_zero_iff {k n : Nat} {v : Bits} (hkn : k < n) (hv : v.length = n) :
    vecmat v (buildParityCheck (buildGenerator k n) k n) = List.replicate (n - k) false ↔
      v = vecmat (v.take k) (buildGenerator k n) := by
  have hparity : (v.drop k).length = n - k := by rw [List.length_drop, hv]
  have hmsg : (vecmat (v.take k) (buildGenerator k n)).take k = v.take k :=
    take_vecmat_buildGenerator hkn (by rw [List.length_take, hv, Nat.min_eq_left hkn.le])
  have hlen : ((vecmat (v.take k) (buildGenerator k n)).drop k).length = (v.drop k).length := by
    rw [List.length_drop, length_vecmat, cols_buildGenerator, hparity]
  rw [vecmat_builtParityCheck hkn hv, ← hparity, vadd_eq_replicate_false_iff hlen]
  constructor
  · intro heq
    rw [← List.take_append_drop k (vecmat _ _), hmsg, heq, List.take_append_drop]
  · intro heq
    rw [← heq]

theorem vecmat_codeword_builtParityCheck {k n : Nat} {m : Bits} (hkn : k < n) (hm : m.length = k) :
    vecmat (vecmat m (buildGenerator k n)) (buildParityCheck (buildGenerator k n) k n) =
      List.replicate (n - k) false :=
  (vecmat_builtParityCheck_eq_zero_iff hkn (length_vecmat _ _)).mpr (by rw [take_vecmat_buildGenerator hkn hm])

/-- Each row of G is a codeword, that of a unit vector. -/
theorem exists_message_of_mem_buildGenerator {k n : Nat} {row : Bits} (h : row ∈ (buildGenerator k n).rows) :
    ∃ m : Bits, m.length = k ∧ row = vecmat m (buildGenerator k n) := by
  obtain ⟨hrows, -⟩ := hasShape_iff.mp (buildGenerator_shape k n)
  obtain ⟨i, hi, rfl⟩ := List.getElem_of_mem h
  have hrow := vecmat_unitVec (buildGenerator_shape k n) (hrows ▸ hi)
  rw [List.getElem?_eq_getElem hi] at hrow
  exact ⟨unitVec k i, length_unitVec k i, (Option.some.inj hrow).symm⟩

/-- Settles O48: the elements of H in its two blocks. -/
theorem parityCheckIsAOverIdentity : Obligations.ParityCheckIsAOverIdentity := by
  rintro k n hkn _ rfl
  refine ⟨buildParityCheck_shape _ k n, fun i j hi hj => ⟨?_, ?_⟩, fun i j hki hi hj => ?_⟩
  · rw [entry_buildParityCheck _ (hi.trans hkn) hj, parityEntry, if_pos hi]
  · rw [entry_builtParityCheck hkn (hi.trans hkn) hj, if_pos hi, bne, Bool.beq_eq_decide_eq, decide_not]
  · rw [entry_builtParityCheck hkn hi hj, if_neg hki.not_gt, Bool.beq_eq_decide_eq]

/-- Settles O49: a row of the product of G and H is the syndrome of a row of G, which is a codeword. -/
theorem generatorTimesParityCheckIsZero : Obligations.GeneratorTimesParityCheckIsZero := by
  rintro k n hkn _ _ rfl rfl
  refine ⟨congrArg (Matrix.mk (n - k)) (List.eq_replicate_iff.mpr ⟨?_, ?_⟩), fun m hm =>
    vecmat_codeword_builtParityCheck hkn hm⟩
  · obtain ⟨hrows, -⟩ := hasShape_iff.mp (buildGenerator_shape k n)
    rw [List.length_map, hrows]
  · refine List.forall_mem_map.mpr fun row hrow => ?_
    obtain ⟨m, hm, rfl⟩ := exists_message_of_mem_buildGenerator hrow
    exact vecmat_codeword_builtParityCheck hkn hm

/-- Settles O50, from the null space of H and the law of vecmat for unit vectors. -/
theorem zeroSyndromeExactlyForCodewords : Obligations.ZeroSyndromeExactlyForCodewords := by
  rintro k n hkn _ _ rfl rfl
  exact ⟨fun _ hv => vecmat_builtParityCheck_eq_zero_iff hkn hv,
    fun _ hi => vecmat_unitVec (buildParityCheck_shape _ k n) hi⟩

end Sys2Proof.Machine

/-! RDST and RDSTO past their checks (spec/43_syndrome_table.md R212, R214). -/

namespace Sys2Proof.Machine

/-- A meaning of LOADING and READY goes on where its check does not fail. -/
theorem gate_inBuilt_check_pass {s : State} {p : Prop} [Decidable p] {e : ErrorCode} {run : Result}
    (hp : s.phase = .loading ∨ s.phase = .ready) (hcheck : ¬p) :
    gate inBuilt s (if p then raise e s else run) = run := by
  obtain ⟨-, hfaulted, hbuilt⟩ := built_phase hp
  rw [gate_pass hfaulted hbuilt, if_neg hcheck]

section

variable {idx : BitVec 16} {s : State} (hp : s.phase = .loading ∨ s.phase = .ready)
include hp

theorem exec_rdst_of_entry (hidx : idx.toNat < 2 ^ s.rVal) {e : Bits} (he : s.st.read idx.toNat = some e) :
    exec (.rdst idx) s =
      respond { tags := tagsByte false false false true, dout := onPort e, val := onVal (weight e) } s := by
  show execRdst idx s = _
  rw [execRdst, gate_inBuilt_check_pass hp hidx.not_ge, he]

theorem exec_rdst_of_gap (hidx : idx.toNat < 2 ^ s.rVal) (hgap : s.st.read idx.toNat = none) :
    exec (.rdst idx) s = respond {} s := by
  show execRdst idx s = _
  rw [execRdst, gate_inBuilt_check_pass hp hidx.not_ge, hgap]

theorem exec_rdsto_of_recorded (hidx : idx.toNat < s.stCount.toNat) {a : Nat} {e : Bits}
    (ha : s.ordAt idx.toNat = some a) (he : s.st.read a = some e) :
    exec (.rdsto idx) s =
      respond { tags := tagsByte false false false true, val := onVal a, dout := onPort e } s := by
  show execRdsto idx s = _
  rw [execRdsto, gate_inBuilt_check_pass hp hidx.not_ge, ha, withStored_some, he, withStored_some]

end

/-- Settles O25, by the two answers of RDST past its check. -/
theorem rdstReadsOneLocation : Obligations.RdstReadsOneLocation :=
  fun _ _ hp hidx => ⟨fun _ he => exec_rdst_of_entry hp hidx he, exec_rdst_of_gap hp hidx⟩

/-- What is recorded at a position below ST_COUNT stands there in ORD. -/
theorem State.ord_of_ordAt {s : State} {t a : Nat} (h : s.ordAt t = some a) : s.ord[t]? = some a := by
  unfold State.ordAt at h
  split at h
  · exact h
  · cases h

/-- Settles O26: under the invariant every position below ST_COUNT holds an address with an entry. -/
theorem rdstoReadsInInsertionOrder : Obligations.RdstoReadsInInsertionOrder := by
  intro idx s hi hp hidx
  obtain ⟨hne, -⟩ := built_phase hp
  obtain ⟨a, e, ha, he⟩ := hi.ordAt_eq hne hidx
  exact ⟨a, e, State.ord_of_ordAt ha, he, exec_rdsto_of_recorded hp hidx ha he⟩

end Sys2Proof.Machine

/-! The candidate enumeration (spec/43_syndrome_table.md R204, R209, R210; spec/00_scope.md R7). Element i mod n of the
i-th candidate is set whatever the weight counter, which is 0 for the first n candidates and sets every element from n on. -/

namespace Sys2Proof.Machine

theorem enumCandidate_eq_unitVec {n i : Nat} (k : Nat) (hi : i < n) : enumCandidate k n i = unitVec n i := by
  simp [enumCandidate, unitVec, Nat.div_eq_of_lt hi, Nat.mod_eq_of_lt hi]

theorem enumCandidate_ne_zero {n : Nat} (k i : Nat) (hn : 0 < n) : enumCandidate k n i ≠ List.replicate n false := by
  have hset : true ∈ enumCandidate k n i :=
    List.mem_map.mpr ⟨i % n, List.mem_range.mpr (Nat.mod_lt i hn), by simp⟩
  exact fun hzero => Bool.noConfusion (List.eq_of_mem_replicate (hzero ▸ hset))

theorem enumCandidate_eq_ones {n i : Nat} (k : Nat) (hw : n ≤ i / n) : enumCandidate k n i = List.replicate n true := by
  refine List.eq_replicate_iff.mpr ⟨length_enumCandidate k n i, fun b hb => ?_⟩
  obtain ⟨j, hj, rfl⟩ := List.mem_map.mp hb
  simp [Nat.min_eq_right hw, List.mem_range.mp hj]

/-- With one parity bit, row 0 of H is the one element A[0][0], which is on the diagonal and so clear. -/
theorem vecmat_firstUnitVec_one_parity {k : Nat} (hk : 0 < k) :
    vecmat (unitVec (k + 1) 0) (buildParityCheck (buildGenerator k (k + 1)) k (k + 1)) = [false] := by
  have hrow := vecmat_unitVec (buildParityCheck_shape (buildGenerator k (k + 1)) k (k + 1)) (Nat.succ_pos k)
  have hA : parityEntry (buildGenerator k (k + 1)) k 0 0 = false := by
    simp [parityEntry, hk, entry_buildGenerator hk, genEntry, aEntry]
  simpa [buildParityCheck, hA] using hrow

/-- With one parity bit there is one candidate, and its syndrome is all-zero. -/
theorem buildSyndromeTable_one_parity {k : Nat} (hk : 0 < k) :
    buildSyndromeTable enumCandidate (buildParityCheck (buildGenerator k (k + 1)) k (k + 1)) (k + 1) k = ⟨[], []⟩ := by
  have htotal : candidateTotal k (k + 1) = 1 := by simp [candidateTotal]
  have hsyndrome : pack (vecmat (enumCandidate k (k + 1) 0)
      (buildParityCheck (buildGenerator k (k + 1)) k (k + 1))) = 0 := by
    rw [enumCandidate_eq_unitVec k (Nat.succ_pos k), vecmat_firstUnitVec_one_parity hk]; rfl
  rw [buildSyndromeTable, htotal]
  rcases tryCandidate_cases _ ⟨[], []⟩ (enumCandidate k (k + 1) 0) with ⟨hne, -⟩ | ⟨-, he⟩
  · exact absurd hsyndrome hne
  · exact he

theorem candidateOf_of_unlisted {enum : List Candidate} {k n i : Nat}
    (h : ∀ c ∈ enum, ¬(c.k = k ∧ c.n = n ∧ c.i = i)) : candidateOf enum k n i = enumCandidate k n i := by
  have hnone : enum.find? (fun c => c.k == k && c.n == n && c.i == i) = none :=
    List.find?_eq_none.mpr fun c hc => by simpa [and_assoc] using h c hc
  rw [candidateOf, hnone]

theorem candidateOf_head {k n i : Nat} {v : Bits} (others : List Candidate) (hv : v.length = n) :
    candidateOf (⟨k, n, i, v⟩ :: others) k n i = v := by
  subst hv
  rw [candidateOf, List.find?_cons_of_pos (by simp)]
  apply List.ext_getElem
  · simp
  · intro j _ hj
    simp [List.getD_eq_getElem?_getD, List.getElem?_eq_getElem hj]

/-- Settles O57, from one lemma per clause. -/
theorem candidatesStartWithSingleBits : Obligations.CandidatesStartWithSingleBits :=
  ⟨fun k _ _ hi => enumCandidate_eq_unitVec k hi,
    fun k n i hn => ⟨length_enumCandidate k n i, enumCandidate_ne_zero k i hn⟩,
    fun k _ _ _ hw => enumCandidate_eq_ones k hw,
    fun _ hk => buildSyndromeTable_one_parity hk,
    fun _ _ _ => rfl,
    fun _ _ _ _ h => candidateOf_of_unlisted h,
    fun s k n i v others hv hs => by rw [State.enumOf, hs, candidateOf_head others hv]⟩

end Sys2Proof.Machine

/-! The table that the builder makes (spec/43_syndrome_table.md R205 to R208), in closed form: after m candidates a
location holds the first of them with its syndrome, and ORD is the syndromes of the candidates that are such firsts. Each
candidate takes the form one step further, as what the builder asks of it (its syndrome is not all-zero and has no entry
yet) is what makes it a first. -/

namespace Sys2Proof.Machine

section

variable (h : Matrix) (candidate : Nat → Bits)

/-- The address of the i-th candidate's syndrome. -/
abbrev syndromeAt (i : Nat) : Nat :=
  pack (vecmat (candidate i) h)

/-- The first of m candidates that has the syndrome at address a. -/
def firstWith (m a : Nat) : Option Nat :=
  (List.range m).find? fun i => syndromeAt h candidate i == a

/-- The indices below m of the candidates recorded: the syndrome is not all-zero, and no candidate before has it. -/
def recorded (m : Nat) : List Nat :=
  (List.range m).filter fun i => syndromeAt h candidate i != 0 && firstWith h candidate i (syndromeAt h candidate i) == none

/-- The table after m candidates: the location of each syndrome that is not all-zero holds the first one that has it, and
ORD lists these syndromes in the order of the candidates. -/
structure SynTable.HoldsFirsts (m : Nat) (t : SynTable) : Prop where
  wf : t.st.wf
  read : ∀ a, t.st.read a = if a = 0 then none else (firstWith h candidate m a).map candidate
  ord : t.ord = (recorded h candidate m).map (syndromeAt h candidate)
  length : t.ord.length = t.st.length

variable {h candidate}

theorem firstWith_eq_some_iff {m a i : Nat} :
    firstWith h candidate m a = some i ↔
      i < m ∧ syndromeAt h candidate i = a ∧ ∀ i' < i, syndromeAt h candidate i' ≠ a := by
  simp [firstWith, List.find?_range_eq_some, and_left_comm]

theorem firstWith_eq_none_iff {m a : Nat} :
    firstWith h candidate m a = none ↔ ∀ i < m, syndromeAt h candidate i ≠ a := by
  simp [firstWith]

theorem firstWith_succ (m a : Nat) :
    firstWith h candidate (m + 1) a =
      (firstWith h candidate m a).or (if syndromeAt h candidate m = a then some m else none) := by
  simp [firstWith, List.range_succ, List.find?_append, List.find?_singleton]

theorem mem_recorded {m i : Nat} :
    i ∈ recorded h candidate m ↔
      i < m ∧ syndromeAt h candidate i ≠ 0 ∧ ∀ i' < i, syndromeAt h candidate i' ≠ syndromeAt h candidate i := by
  simp [recorded, firstWith_eq_none_iff]

theorem recorded_succ (m : Nat) :
    recorded h candidate (m + 1) = recorded h candidate m ++
      if syndromeAt h candidate m ≠ 0 ∧ firstWith h candidate m (syndromeAt h candidate m) = none then [m] else [] := by
  simp [recorded, List.range_succ, List.filter_append, List.filter_singleton]

theorem recorded_sorted (m : Nat) : (recorded h candidate m).Pairwise (· < ·) :=
  List.pairwise_lt_range.filter _

/-- Two candidates, each the first with its syndrome, are one where the syndromes are equal. -/
theorem eq_of_first {i j : Nat} (hi : ∀ i' < i, syndromeAt h candidate i' ≠ syndromeAt h candidate i)
    (hj : ∀ j' < j, syndromeAt h candidate j' ≠ syndromeAt h candidate j)
    (heq : syndromeAt h candidate i = syndromeAt h candidate j) : i = j := by
  rcases Nat.lt_trichotomy i j with hlt | rfl | hgt
  · exact absurd heq (hj i hlt)
  · rfl
  · exact absurd heq.symm (hi j hgt)

theorem nodup_map_recorded (m : Nat) : ((recorded h candidate m).map (syndromeAt h candidate)).Nodup := by
  refine List.Nodup.map_on (fun i hi j hj heq => ?_) (List.nodup_range.filter _)
  obtain ⟨-, -, hi⟩ := mem_recorded.mp hi
  obtain ⟨-, -, hj⟩ := mem_recorded.mp hj
  exact eq_of_first hi hj heq

/-- Where ORD has the syndrome of a candidate that is the first with it, that candidate was recorded. -/
theorem getElem?_recorded_of_first {m p i : Nat}
    (hp : ((recorded h candidate m).map (syndromeAt h candidate))[p]? = some (syndromeAt h candidate i))
    (hi : ∀ i' < i, syndromeAt h candidate i' ≠ syndromeAt h candidate i) : (recorded h candidate m)[p]? = some i := by
  rw [List.getElem?_map, Option.map_eq_some_iff] at hp
  obtain ⟨j, hj, heq⟩ := hp
  obtain ⟨-, -, hfirst⟩ := mem_recorded.mp (List.mem_of_getElem? hj)
  rwa [← eq_of_first hfirst hi heq]

/-- Recorded syndromes stand in the order of the first candidates that have them. -/
theorem lt_of_recorded_at {m p q i j : Nat} (hpq : p < q)
    (hp : ((recorded h candidate m).map (syndromeAt h candidate))[p]? = some (syndromeAt h candidate i))
    (hq : ((recorded h candidate m).map (syndromeAt h candidate))[q]? = some (syndromeAt h candidate j))
    (hi : ∀ i' < i, syndromeAt h candidate i' ≠ syndromeAt h candidate i)
    (hj : ∀ j' < j, syndromeAt h candidate j' ≠ syndromeAt h candidate j) : i < j := by
  obtain ⟨hplt, rfl⟩ := List.getElem?_eq_some_iff.mp (getElem?_recorded_of_first hp hi)
  obtain ⟨hqlt, rfl⟩ := List.getElem?_eq_some_iff.mp (getElem?_recorded_of_first hq hj)
  exact List.pairwise_iff_getElem.mp (recorded_sorted m) p q hplt hqlt hpq

theorem SynTable.HoldsFirsts.read_eq_none_iff {m a : Nat} {t : SynTable} (ht : t.HoldsFirsts h candidate m) (ha : a ≠ 0) :
    t.st.read a = none ↔ firstWith h candidate m a = none := by
  rw [ht.read, if_neg ha, Option.map_eq_none_iff]

theorem SynTable.HoldsFirsts.tryCandidate {m : Nat} {t : SynTable} (ht : t.HoldsFirsts h candidate m) :
    (tryCandidate h t (candidate m)).HoldsFirsts h candidate (m + 1) := by
  rcases tryCandidate_cases h t (candidate m) with ⟨hne, hnew, he⟩ | ⟨hold, he⟩ <;> rw [he]
  · have hfirst : firstWith h candidate m (syndromeAt h candidate m) = none := (ht.read_eq_none_iff hne).mp hnew
    refine ⟨Memory.write_wf _ _ ht.wf, fun a => ?_, ?_, ?_⟩
    · rw [Memory.read_write _ ht.wf, firstWith_succ, ht.read]
      by_cases ha : a = syndromeAt h candidate m
      · subst ha; simp [hne, hfirst]
      · simp [ha, Ne.symm ha]
    · rw [recorded_succ, if_pos ⟨hne, hfirst⟩, List.map_append, ht.ord]; rfl
    · rw [List.length_append, ht.length, Memory.length_write_of_none hnew]; rfl
  · refine ⟨ht.wf, fun a => ?_, ?_, ht.length⟩
    · rw [firstWith_succ, ht.read]
      split
      · rfl
      · next ha =>
        by_cases heq : syndromeAt h candidate m = a
        · subst heq
          obtain ⟨i, hi⟩ := Option.ne_none_iff_exists'.mp
            (mt (ht.read_eq_none_iff ha).mpr (hold.resolve_left ha))
          rw [hi, Option.some_or]
        · rw [if_neg heq, Option.or_none]
    · rw [recorded_succ, if_neg, List.append_nil, ht.ord]
      rintro ⟨hne, hfirst⟩
      exact hold.elim hne fun hread => hread ((ht.read_eq_none_iff hne).mpr hfirst)

/-- An entry is the first candidate that has its syndrome, which is not all-zero. -/
theorem SynTable.HoldsFirsts.read_eq_some_iff {m a : Nat} {e : Bits} {t : SynTable} (ht : t.HoldsFirsts h candidate m) :
    t.st.read a = some e ↔
      a ≠ 0 ∧ ∃ i, (i < m ∧ syndromeAt h candidate i = a ∧ ∀ i' < i, syndromeAt h candidate i' ≠ a) ∧ candidate i = e := by
  simp [ht.read, firstWith_eq_some_iff]

theorem SynTable.HoldsFirsts.mem_ord_iff {m a : Nat} {t : SynTable} (ht : t.HoldsFirsts h candidate m) :
    a ∈ t.ord ↔ (t.st.read a).isSome = true := by
  rw [ht.ord, List.mem_map, Option.isSome_iff_exists]
  constructor
  · rintro ⟨i, hi, rfl⟩
    obtain ⟨him, hne, hfirst⟩ := mem_recorded.mp hi
    exact ⟨_, ht.read_eq_some_iff.mpr ⟨hne, i, ⟨him, rfl, hfirst⟩, rfl⟩⟩
  · rintro ⟨e, he⟩
    obtain ⟨hne, i, ⟨him, rfl, hfirst⟩, -⟩ := ht.read_eq_some_iff.mp he
    exact ⟨i, mem_recorded.mpr ⟨him, hne, hfirst⟩, rfl⟩

theorem SynTable.HoldsFirsts.isSome_read {m i : Nat} {t : SynTable} (ht : t.HoldsFirsts h candidate m) (hi : i < m)
    (hne : syndromeAt h candidate i ≠ 0) : (t.st.read (syndromeAt h candidate i)).isSome = true := by
  rw [Option.isSome_iff_ne_none, ne_eq, ht.read_eq_none_iff hne, firstWith_eq_none_iff]
  exact fun hnone => hnone i hi rfl

end

theorem buildSyndromeTable_holdsFirsts (enum : Nat → Nat → Nat → Bits) (h : Matrix) (n k : Nat) :
    (buildSyndromeTable enum h n k).HoldsFirsts h (enum k n) (candidateTotal k n) :=
  buildSyndromeTable_induct (SynTable.HoldsFirsts h (enum k n))
    ⟨List.Pairwise.nil, fun _ => (ite_self none).symm, rfl, rfl⟩
    fun _ _ ht => ht.tryCandidate

/-- A syndrome is read back from its address. -/
theorem vecmat_eq_unpack_syndromeAt (h : Matrix) (candidate : Nat → Bits) (i : Nat) :
    vecmat (candidate i) h = unpack h.cols (syndromeAt h candidate i) := by
  rw [← length_vecmat (candidate i) h, unpack_length_pack]

theorem syndromeAt_lt (h : Matrix) (candidate : Nat → Bits) (i : Nat) : syndromeAt h candidate i < 2 ^ h.cols :=
  length_vecmat (candidate i) h ▸ pack_lt_two_pow_length _

/-- Settles O56, from the closed form of the table after all T candidates. -/
theorem tableHoldsTheFirstCandidates : Obligations.TableHoldsTheFirstCandidates := by
  rintro enum h n k hcols _ rfl
  have ht := buildSyndromeTable_holdsFirsts enum h n k
  refine ⟨ht.wf, ht.read 0, fun a e hread => ?_, fun i hi hne => ht.isSome_read hi hne,
    ht.ord ▸ nodup_map_recorded _, fun a => ht.mem_ord_iff, ht.length,
    buildSyndromeTable_ord_length_le enum h n k, fun p q i j hpq hp hq hi hj => ?_⟩
  · obtain ⟨-, i, ⟨hlt, rfl, hfirst⟩, rfl⟩ := ht.read_eq_some_iff.mp hread
    exact ⟨hcols ▸ syndromeAt_lt h (enum k n) i, hcols ▸ vecmat_eq_unpack_syndromeAt h (enum k n) i,
      i, hlt, rfl, hfirst⟩
  · rw [ht.ord] at hp hq
    exact lt_of_recorded_at hpq hp hq hi hj

end Sys2Proof.Machine

/-! The corrected vector (spec/44_decoder.md R247). The syndrome of a sum is the sum of the syndromes, so the corrected
vector has the all-zero syndrome exactly when the error vector has the syndrome of the vector received: an exact hit has it,
an entry chosen by the fallback has the syndrome of its own address. -/

namespace Sys2Proof.Machine

theorem vadd_comm (u v : Bits) : vadd u v = vadd v u := by
  simp only [vadd_eq_zipWith_xor, List.zipWith_comm (as := u), Bool.xor_comm]

theorem vadd_zeros_left {len : Nat} {v : Bits} (hv : v.length = len) : vadd (zeros len) v = v := by
  subst hv
  apply List.ext_getElem
  · simp
  · intro j _ _
    rw [getElem_vadd]
    simp [zeros]

theorem weight_zeros (len : Nat) : weight (zeros len) = 0 :=
  weight_eq_zero_iff.mpr (by rw [length_zeros]; rfl)

theorem pack_zeros (len : Nat) : pack (zeros len) = 0 := by
  induction len with
  | zero => rfl
  | succ len ih => rw [zeros, List.replicate_succ', pack_append_singleton, ← zeros, ih]; rfl

theorem pack_injective {u v : Bits} (hlen : u.length = v.length) (h : pack u = pack v) : u = v := by
  have := unpack_length_pack u
  rwa [h, hlen, unpack_length_pack, eq_comm] at this

theorem length_vadd_of_eq {u v : Bits} {len : Nat} (hu : u.length = len) (hv : v.length = len) :
    (vadd u v).length = len := by
  rw [length_vadd, hu, hv, Nat.min_self]

/-- Step 2 is an exact hit at address a, with error vector e: the first two cases of 44_decoder R242. -/
def State.ExactHit (s : State) (a : Nat) (e : Bits) : Prop :=
  (a = 0 ∧ e = zeros s.nVal) ∨ (a ≠ 0 ∧ s.st.read a = some e)

section

variable {s : State} (hi : s.Inv) (hp : s.phase ≠ .empty)
include hi hp

theorem State.Inv.syndrome_length (v : Bits) : (vecmat v s.h).length = s.rVal := by
  obtain ⟨-, ⟨-, hh, -⟩, -⟩ := hi.built hp
  rw [length_vecmat, hh]
  rfl

theorem State.Inv.codeword_length (m : Bits) : (vecmat m s.g).length = s.nVal := by
  obtain ⟨-, ⟨hg, -⟩, -⟩ := hi.built hp
  rw [length_vecmat, hg]
  rfl

theorem State.Inv.syndrome_eq_zeros_iff {v : Bits} (hv : v.length = s.nVal) :
    vecmat v s.h = zeros s.rVal ↔ v = vecmat (v.take s.kVal) s.g := by
  obtain ⟨⟨-, hkn, -⟩, ⟨hg, hh, -⟩, -⟩ := hi.built hp
  rw [hh, hg]
  exact vecmat_builtParityCheck_eq_zero_iff hkn hv

/-- Every codeword in the dictionary has the all-zero syndrome. -/
theorem State.Inv.syndrome_of_entry {entry : Entry} (h : entry ∈ s.cd) : vecmat entry.cw s.h = zeros s.rVal := by
  obtain ⟨-, -, -, -, -, hentries⟩ := hi.built hp
  obtain ⟨hcw, -⟩ := hentries entry h
  exact (hi.syndrome_eq_zeros_iff hp (hi.entry_length hp h)).mpr hcw

/-- An entry stands at the address of its own syndrome, which is not all-zero. -/
theorem State.Inv.address_of_read {a : Nat} {e : Bits} (h : s.st.read a = some e) :
    pack (vecmat e s.h) = a ∧ a ≠ 0 := by
  obtain ⟨-, ⟨-, -, htable, -⟩, -⟩ := hi.built hp
  have ht := buildSyndromeTable_holdsFirsts s.enumOf s.h s.nVal s.kVal
  rw [← htable] at ht
  obtain ⟨hne, i, ⟨-, haddress, -⟩, rfl⟩ := ht.read_eq_some_iff.mp h
  exact ⟨haddress, hne⟩

theorem State.Inv.exactHit_length {a : Nat} {e : Bits} (h : s.ExactHit a e) : e.length = s.nVal := by
  rcases h with ⟨-, rfl⟩ | ⟨-, he⟩
  · exact length_zeros _
  · exact hi.read_length hp he

theorem State.Inv.exactHit_address {a : Nat} {e : Bits} (h : s.ExactHit a e) : pack (vecmat e s.h) = a := by
  rcases h with ⟨rfl, rfl⟩ | ⟨-, he⟩
  · rw [zeros, vecmat_replicate_false]
    exact pack_zeros _
  · exact (hi.address_of_read hp he).1

theorem State.Inv.corrected_syndrome_iff {e y : Bits} (he : e.length = s.nVal) (hy : y.length = s.nVal) :
    vecmat (vadd e y) s.h = zeros s.rVal ↔ pack (vecmat e s.h) = pack (vecmat y s.h) := by
  have hlen : (vecmat e s.h).length = (vecmat y s.h).length := by rw [length_vecmat, length_vecmat]
  rw [vecmat_vadd _ (he.trans hy.symm), ← hi.syndrome_length hp y, zeros, vadd_eq_replicate_false_iff hlen]
  exact ⟨congrArg pack, pack_injective hlen⟩

/-- An entry chosen for an address without one does not have the syndrome received (R247 b). -/
theorem State.Inv.corrected_syndrome_of_gap {e y : Bits} {chosen : Nat} (hy : y.length = s.nVal)
    (hgap : s.st.read (pack (vecmat y s.h)) = none) (he : s.st.read chosen = some e) :
    vecmat (vadd e y) s.h ≠ zeros s.rVal := by
  obtain ⟨haddress, -⟩ := hi.address_of_read hp he
  rw [Ne, hi.corrected_syndrome_iff hp (hi.read_length hp he) hy, haddress]
  rintro rfl
  rw [hgap] at he
  cases he

/-- So no codeword of the dictionary matches the corrected vector (R251). -/
theorem State.Inv.no_match_of_gap {e y : Bits} {chosen : Nat} (hy : y.length = s.nVal)
    (hgap : s.st.read (pack (vecmat y s.h)) = none) (he : s.st.read chosen = some e) :
    ∀ entry ∈ s.cd, entry.cw ≠ vadd e y := fun _ hentry heq =>
  hi.corrected_syndrome_of_gap hp hy hgap he (heq ▸ hi.syndrome_of_entry hp hentry)

end

/-- Settles O33: the three sources of the error vector by the address of its syndrome. -/
theorem correctedVectorIsACodewordOrNever : Obligations.CorrectedVectorIsACodewordOrNever := by
  rintro s y e _ _ hi hp hy rfl rfl
  refine ⟨fun hhit => ?_, fun chosen _ hgap hchosen => ?_⟩
  · have he := hi.exactHit_length hp hhit
    have hzero := (hi.corrected_syndrome_iff hp he hy).mpr (hi.exactHit_address hp hhit)
    exact ⟨hzero, (hi.syndrome_eq_zeros_iff hp (length_vadd_of_eq he hy)).mp hzero,
      by rw [vadd_vadd_cancel (he.trans hy.symm)]⟩
  · have he := hi.read_length hp hchosen
    have hzero := hi.corrected_syndrome_of_gap hp hy hgap hchosen
    exact ⟨hzero, mt (hi.syndrome_eq_zeros_iff hp (length_vadd_of_eq he hy)).mpr hzero,
      by rw [vadd_vadd_cancel (he.trans hy.symm)]⟩

end Sys2Proof.Machine

/-! DEC past its checks (spec/44_decoder.md R242 to R246): step 2 case by case, and what DEC answers for its choice. -/

namespace Sys2Proof.Machine

theorem chooseError_of_exactHit {s : State} {a : Nat} {e : Bits} (h : s.ExactHit a e) :
    chooseError a s = .ok (⟨e, false, decide (a = 0)⟩, s) := by
  rcases h with ⟨rfl, rfl⟩ | ⟨hne, he⟩
  · rfl
  · rw [chooseError, if_neg hne, he, decide_eq_false hne]

theorem chooseError_of_gap {s : State} {a : Nat} (ha : a ≠ 0) (hgap : s.st.read a = none) :
    chooseError a s = syndromeFallback s := by
  rw [chooseError, if_neg ha, hgap]

theorem syndromeFallback_of_empty {s : State} (h : s.stCount = 0) :
    syndromeFallback s = .error (.error .emptyFallback s) :=
  if_pos h

section

variable {s : State} (hi : s.Inv) (hp : s.phase ≠ .empty)
include hi hp

/-- The fallback takes a draw and chooses the entry recorded at the position it names (R246). -/
theorem State.Inv.syndromeFallback_eq (hcount : s.stCount ≠ 0) :
    ∃ a e, s.ord[s.drawValue % s.stCount.toNat]? = some a ∧ s.st.read a = some e ∧
      syndromeFallback s = .ok (⟨e, true, false⟩, s.afterDraw) := by
  have hpos : 0 < s.stCount.toNat := Nat.pos_of_ne_zero (BitVec.toNat_ne_iff_ne.mpr hcount)
  obtain ⟨a, e, ha, he⟩ := hi.ordAt_eq hp (Nat.mod_lt s.drawValue hpos)
  refine ⟨a, e, State.ord_of_ordAt ha, he, ?_⟩
  simp only [syndromeFallback, if_neg hcount, State.errAt, ha, he]

theorem State.Inv.locateError_of_exactHit {y e : Bits} (h : s.ExactHit (pack (vecmat y s.h)) e) :
    locateError y s = .ok (⟨e, false, decide (pack (vecmat y s.h) = 0)⟩, s) :=
  (hi.locateError_eq hp y).trans (chooseError_of_exactHit h)

theorem State.Inv.locateError_of_gap {y : Bits} (ha : pack (vecmat y s.h) ≠ 0)
    (hgap : s.st.read (pack (vecmat y s.h)) = none) : locateError y s = syndromeFallback s :=
  (hi.locateError_eq hp y).trans (chooseError_of_gap ha hgap)

end

section

variable {len : BitVec 8} {s : State} (hp : s.phase = .loading ∨ s.phase = .ready) (hlen : len.toNat = s.nVal)
include hp hlen

theorem exec_dec_of_located {e : Bits} {fb1 zs : Bool} {t : State}
    (h : locateError (unpack s.nVal s.din.toNat) s = .ok (⟨e, fb1, zs⟩, t)) :
    exec (.dec len) s = respond
      { dout := onPort (vadd e (unpack s.nVal s.din.toNat)), val := onVal (weight e)
        tags := tagsByte fb1 false zs false } (t.counted fb1 false) := by
  show execDec len s = _
  rw [execDec, gate_inBuilt_check_pass hp (not_not.mpr hlen), State.operand, h]

theorem exec_dec_of_stop {stop : Stop} (h : locateError (unpack s.nVal s.din.toNat) s = .error stop) :
    exec (.dec len) s = stop.result := by
  show execDec len s = _
  rw [execDec, gate_inBuilt_check_pass hp (not_not.mpr hlen), State.operand, h]

end

/-- Settles O29, by the cases of step 2. -/
theorem decCorrectsTheVector : Obligations.DecCorrectsTheVector := by
  rintro len s hi hp hlen y _ rfl rfl
  obtain ⟨hne, -⟩ := built_phase hp
  refine ⟨fun ha => ?_, fun e ha he => ?_, fun ha hgap hcount => ?_, fun ha hgap hcount => ?_⟩
  · rw [exec_dec_of_located hp hlen (hi.locateError_of_exactHit hne (.inl ⟨ha, rfl⟩)), weight_zeros,
      vadd_zeros_left (length_unpack _ _), decide_eq_true ha]
    rfl
  · rw [exec_dec_of_located hp hlen (hi.locateError_of_exactHit hne (.inr ⟨ha, he⟩)), decide_eq_false ha]
    rfl
  · obtain ⟨a, e, hord, he, hfallback⟩ := hi.syndromeFallback_eq hne hcount
    exact ⟨a, e, hord, he, exec_dec_of_located hp hlen ((hi.locateError_of_gap hne ha hgap).trans hfallback)⟩
  · exact exec_dec_of_stop hp hlen ((hi.locateError_of_gap hne ha hgap).trans (syndromeFallback_of_empty hcount))

/-- Settles O35: a queued draw j, short enough for the source, is the position j itself. -/
theorem everyEntryCanBeChosen : Obligations.EveryEntryCanBeChosen := by
  rintro len s _ j ds hi hp hlen rfl ha hgap hj hbits
  have hdraw : ({ s with draws := j :: ds } : State).drawValue % s.stCount.toNat = j := by
    rw [State.drawValue, Nat.mod_eq_of_lt hbits, Nat.mod_eq_of_lt hj]
  have hcount : s.stCount ≠ 0 := by
    intro h0
    rw [h0] at hj
    exact Nat.not_lt_zero _ hj
  obtain ⟨-, -, hfallback, -⟩ := decCorrectsTheVector len { s with draws := j :: ds } hi hp hlen _ _ rfl rfl
  obtain ⟨a, e, hord, he, hexec⟩ := hfallback ha hgap hcount
  exact ⟨a, e, _, hdraw ▸ hord, he, hexec, rfl, rfl⟩

/-- The syndrome of a codeword with element i flipped is row i of H (42_parity_check_builder R185). -/
theorem State.Inv.syndrome_of_flip {s : State} {m row : Bits} {i : Nat} (hi : s.Inv) (hp : s.phase ≠ .empty)
    (hm : m.length = s.kVal) (hn : i < s.nVal) (hrow : s.h.rows[i]? = some row) :
    vecmat (vadd (vecmat m s.g) (unitVec s.nVal i)) s.h = row := by
  obtain ⟨⟨-, hkn, -⟩, ⟨hg, hh, -⟩, -⟩ := hi.built hp
  have hcodeword : vecmat (vecmat m s.g) s.h = zeros s.rVal := by
    rw [hh, hg]
    exact vecmat_codeword_builtParityCheck hkn hm
  have hunit : vecmat (unitVec s.nVal i) s.h = row :=
    Option.some.inj ((vecmat_unitVec (hi.view_shape hp .h) hn).trans hrow)
  rw [vecmat_vadd _ ((hi.codeword_length hp m).trans (length_unitVec _ _).symm), hcodeword, hunit,
    vadd_zeros_left (hunit ▸ hi.syndrome_length hp _)]

/-- Settles O34: where row i of H has the entry e_i, the flip is added once more. -/
theorem singleFlipIsUndoneWhereRecorded : Obligations.SingleFlipIsUndoneWhereRecorded := by
  rintro len s m _ i row hi hp hlen hm rfl hn hrow hy
  obtain ⟨hne, -⟩ := built_phase hp
  have hsyndrome : vecmat (unpack s.nVal s.din.toNat) s.h = row := by rw [hy, hi.syndrome_of_flip hne hm hn hrow]
  refine ⟨hsyndrome, fun hentry => ?_⟩
  obtain ⟨-, ha⟩ := hi.address_of_read hne hentry
  obtain ⟨-, hhit, -⟩ := decCorrectsTheVector len s hi hp hlen _ _ rfl (congrArg pack hsyndrome.symm)
  have hlen := (hi.codeword_length hne m).trans (length_unitVec s.nVal i).symm
  refine ⟨_, hhit _ ha hentry, ?_, rfl, rfl⟩
  rw [hy, vadd_comm, vadd_vadd_cancel hlen, weight_unitVec hn]
  rfl

end Sys2Proof.Machine

/-! DECL past its checks (spec/44_decoder.md R248 to R252): step 4 case by case, and what DECL answers for the choice of
step 2 and the symbol of step 4. -/

namespace Sys2Proof.Machine

theorem State.Inv.afterDraw {s : State} (hi : s.Inv) : s.afterDraw.Inv :=
  (State.inv_takeDraws (count := 1)).mpr hi

section

variable {s : State} (hi : s.Inv) (hp : s.phase ≠ .empty)
include hi hp

/-- The codewords stored are distinct, so the entry found is the entry that matches (10_state R33). -/
theorem State.Inv.resolveSymbol_of_match {entry : Entry} (h : entry ∈ s.cd) :
    resolveSymbol entry.cw s = .ok ((entry.sym, false), s) := by
  obtain ⟨-, -, -, -, hdistinct, -⟩ := hi.built hp
  have hfind : s.cd.find? (fun e => e.cw == entry.cw) = some entry := by
    cases hfound : s.cd.find? (fun e => e.cw == entry.cw) with
    | none => exact absurd (beq_self_eq_true entry.cw) (List.find?_eq_none.mp hfound entry h)
    | some found =>
      have hcw : found.cw = entry.cw := by simpa using List.find?_some hfound
      rw [List.inj_on_of_nodup_map hdistinct (List.mem_of_find?_eq_some hfound) h hcw]
  simp only [resolveSymbol, hi.dictionary_eq hp, hfind]

theorem State.Inv.resolveSymbol_of_no_match {x : Bits} (hnone : ∀ entry ∈ s.cd, entry.cw ≠ x)
    (hcount : s.cdCount ≠ 0) :
    ∃ entry, s.cd[s.drawValue % s.cdCount.toNat]? = some entry ∧
      resolveSymbol x s = .ok ((entry.sym, true), s.afterDraw) := by
  obtain ⟨-, -, hlen, -⟩ := hi.built hp
  have hpos : 0 < s.cdCount.toNat := Nat.pos_of_ne_zero (BitVec.toNat_ne_iff_ne.mpr hcount)
  have hlt : s.drawValue % s.cdCount.toNat < s.cd.length := hlen.symm ▸ Nat.mod_lt _ hpos
  have hfind : s.cd.find? (fun e => e.cw == x) = none := List.find?_eq_none.mpr (by simpa using hnone)
  refine ⟨_, List.getElem?_eq_getElem hlt, ?_⟩
  simp only [resolveSymbol, hi.dictionary_eq hp, hfind, if_neg hcount, List.getElem?_eq_getElem hlt]

theorem State.Inv.resolveSymbol_of_empty (x : Bits) (hcount : s.cdCount = 0) :
    resolveSymbol x s = .error (.error .emptyFallback s) := by
  obtain ⟨-, -, hlen, -⟩ := hi.built hp
  have hnil : s.cd = [] := List.eq_nil_of_length_eq_zero (by rw [hlen, hcount]; rfl)
  simp only [resolveSymbol, hi.dictionary_eq hp, hnil, List.find?_nil, if_pos hcount]

end

/-- A meaning of READY goes on where its check does not fail. -/
theorem gate_inReady_check_pass {s : State} {p : Prop} [Decidable p] {e : ErrorCode} {run : Result}
    (hp : s.phase = .ready) (hcheck : ¬p) : gate inReady s (if p then raise e s else run) = run := by
  rw [gate_pass (by simp [hp]) (by simp [hp, inReady]), if_neg hcheck]

section

variable {len : BitVec 8} {s : State} (hp : s.phase = .ready) (hlen : len.toNat = s.nVal)
include hp hlen

theorem exec_decl_of_stop {stop : Stop} (h : locateError (unpack s.nVal s.din.toNat) s = .error stop) :
    exec (.decl len) s = stop.result := by
  show execDecl len s = _
  rw [execDecl, gate_inReady_check_pass hp (not_not.mpr hlen), State.operand, h]

variable {e : Bits} {fb1 zs : Bool} {t : State}
  (hloc : locateError (unpack s.nVal s.din.toNat) s = .ok (⟨e, fb1, zs⟩, t))
include hloc

theorem exec_decl_of_resolved {q : Symbol} {fb2 : Bool} {u : State}
    (h : resolveSymbol (vadd e (unpack s.nVal s.din.toNat)) t = .ok ((q, fb2), u)) :
    exec (.decl len) s = respond
      { sym := q, dout := onPort (vadd e (unpack s.nVal s.din.toNat)), val := onVal (weight e)
        tags := tagsByte fb1 fb2 zs false } (u.counted fb1 fb2) := by
  show execDecl len s = _
  simp only [execDecl, gate_inReady_check_pass hp (not_not.mpr hlen), State.operand, hloc, h]

theorem exec_decl_of_unresolved {stop : Stop}
    (h : resolveSymbol (vadd e (unpack s.nVal s.din.toNat)) t = .error stop) : exec (.decl len) s = stop.result := by
  show execDecl len s = _
  simp only [execDecl, gate_inReady_check_pass hp (not_not.mpr hlen), State.operand, hloc, h]

end

/-- After an exact hit ZS says which of the two it was (10_state R39). -/
theorem tagsByte_exactHit (cwFb : Bool) (a : Nat) :
    tagsByte false cwFb (decide (a = 0)) false =
      if a = 0 then tagsByte false cwFb true false else tagsByte false cwFb false false := by
  split
  · next ha => rw [decide_eq_true ha]
  · next ha => rw [decide_eq_false ha]

/-- Settles O30, by the cases of step 4 on the state that an exact hit leaves as it was. -/
theorem declResolvesAfterAnExactHit : Obligations.DeclResolvesAfterAnExactHit := by
  rintro len s y e _ _ hi hp hlen rfl rfl hhit rfl
  have hne : s.phase ≠ .empty := by simp [hp]
  have hloc := hi.locateError_of_exactHit hne hhit
  refine ⟨fun entry hentry hmatch => ?_, fun hnone hcount => ?_, fun _ hcount => ?_⟩
  · have hsym := hi.resolveSymbol_of_match hne hentry
    rw [hmatch] at hsym
    rw [exec_decl_of_resolved hp hlen hloc hsym, tagsByte_exactHit]
    rfl
  · obtain ⟨entry, hentry, hsym⟩ := hi.resolveSymbol_of_no_match hne hnone hcount
    refine ⟨entry, hentry, ?_⟩
    rw [exec_decl_of_resolved hp hlen hloc hsym, tagsByte_exactHit]
    rfl
  · exact exec_decl_of_unresolved hp hlen hloc (hi.resolveSymbol_of_empty hne _ hcount)

/-- Settles O31: after the syndrome fallback no codeword matches, so step 4 draws again or finds no entry. -/
theorem declAfterASyndromeFallback : Obligations.DeclAfterASyndromeFallback := by
  rintro len s _ _ hi hp hlen rfl rfl ha hgap
  have hne : s.phase ≠ .empty := by simp [hp]
  have hloc := hi.locateError_of_gap hne ha hgap
  refine ⟨fun hst hcd => ?_, fun hst hcd => ?_, fun hst => ?_⟩
  · obtain ⟨a, e, hord, he, hfallback⟩ := hi.syndromeFallback_eq hne hst
    have hnone := hi.no_match_of_gap hne (length_unpack _ _) hgap he
    obtain ⟨entry, hentry, hsym⟩ := hi.afterDraw.resolveSymbol_of_no_match hne hnone hcd
    exact ⟨a, e, entry, hord, he, hentry, exec_decl_of_resolved hp hlen (hloc.trans hfallback) hsym⟩
  · obtain ⟨a, e, -, -, hfallback⟩ := hi.syndromeFallback_eq hne hst
    exact exec_decl_of_unresolved hp hlen (hloc.trans hfallback) (hi.afterDraw.resolveSymbol_of_empty hne _ hcd)
  · exact exec_decl_of_stop hp hlen (hloc.trans (syndromeFallback_of_empty hst))

/-- Settles O32: a stored codeword has the all-zero syndrome, so it is its own corrected vector and matches itself. -/
theorem roundTripWithoutErrors : Obligations.RoundTripWithoutErrors := by
  intro len s entry hi hp hentry hlen hy
  have hne : s.phase ≠ .empty := by simp [hp]
  have ha : pack (vecmat (unpack s.nVal s.din.toNat) s.h) = 0 := by
    rw [hy, hi.syndrome_of_entry hne hentry, pack_zeros]
  have hx : vadd (zeros s.nVal) (unpack s.nVal s.din.toNat) = entry.cw := by
    rw [vadd_zeros_left (length_unpack _ _), hy]
  obtain ⟨hmatch, -⟩ :=
    declResolvesAfterAnExactHit len s _ _ _ 0 hi hp hlen rfl ha.symm (.inl ⟨rfl, rfl⟩) hx.symm
  rw [hmatch entry hentry rfl, ← zeros, weight_zeros]
  rfl

end Sys2Proof.Machine

/-! The draws and the frame of a decode (spec/44_decoder.md R244, R250, R254, R255), from the kinds of write. -/

namespace Sys2Proof.Machine

theorem OkWrite.of_decode {i : Instr} {s t : State} (h : OkWrite i s t) (hi : ∃ len, i = .dec len ∨ i = .decl len) :
    ∃ r fb1 fb2 zs, t = ((takeDraws (fb1.toNat + fb2.toNat) s).counted fb1 fb2).answered r ∧
      r.tags = tagsByte fb1 fb2 zs false ∧ ((∃ len, i = .dec len) → fb2 = false) := by
  cases h with
  | decode r fb1 fb2 zs built decodes tags =>
    refine ⟨r, fb1, fb2, zs, rfl, tags, ?_⟩
    rintro ⟨len, rfl⟩
    obtain ⟨_, -, hfb2⟩ | ⟨_, ⟨⟩⟩ := decodes
    exact hfb2
  | reader r reads => obtain ⟨len, rfl | rfl⟩ := hi <;> cases reads
  | _ => simp at hi

theorem OkWrite.draws_of_not_decode {i : Instr} {s t : State} (h : OkWrite i s t)
    (hi : ¬∃ len, i = .dec len ∨ i = .decl len) : t.draws = s.draws ∧ t.drawCount = s.drawCount := by
  cases h with
  | decode r fb1 fb2 zs built decodes =>
    obtain ⟨len, rfl, -⟩ | ⟨len, rfl⟩ := decodes
    · exact absurd ⟨len, .inl rfl⟩ hi
    · exact absurd ⟨len, .inr rfl⟩ hi
  | reader r | reset r | construct r | ldsym r | sealCode r => exact ⟨rfl, rfl⟩

/-- Settles O36: the draws of a decode that ends OK are its fallbacks, and an error has taken one or none. -/
theorem drawsOnlyOnFallbacks : Obligations.DrawsOnlyOnFallbacks := by
  intro i s t r h hr
  rcases exec_next_cases h with hok | herr
  · have h0 := hok.status hr
    by_cases hi : ∃ len, i = .dec len ∨ i = .decl len
    · obtain ⟨r', fb1, fb2, zs, rfl, htags, hdec⟩ := hok.write.of_decode hi
      cases hr
      have h1 := fb1.toNat_le
      have h2 := fb2.toNat_le
      refine ⟨fb1.toNat + fb2.toNat, takeDraws_draws _ _, takeDraws_drawCount _ _, fun hd => ?_, fun _ => by omega,
        fun hnd hnl => ?_, fun _ _ => ?_, fun hne => absurd h0 hne⟩
      · rw [hdec hd]; exact h1
      · obtain ⟨len, hd | hl⟩ := hi
        · exact absurd hd (hnd len)
        · exact absurd hl (hnl len)
      · rw [htags, tagsByte_getLsbD_zero, tagsByte_getLsbD_one]
    · obtain ⟨hdraws, hcount⟩ := hok.write.draws_of_not_decode hi
      exact ⟨0, hdraws, hcount, fun _ => Nat.zero_le _, fun _ => Nat.zero_le _, fun _ _ => rfl,
        fun hd => absurd hd hi, fun hne => absurd h0 hne⟩
  · obtain ⟨e, u, rfl, -, rfl | ⟨rfl, rfl, hst, hcd, len, rfl⟩⟩ := herr <;> cases hr
    · exact ⟨0, rfl, rfl, fun _ => Nat.zero_le _, fun _ => Nat.zero_le _, fun _ _ => rfl,
        fun _ h0 => absurd h0 e.code_ne_zero, fun _ => .inl rfl⟩
    · exact ⟨1, List.drop_one.symm, rfl, fun _ => le_refl 1, fun _ => by decide, fun _ hnl => absurd rfl (hnl len),
        fun _ h0 => absurd h0 (ErrorCode.code_ne_zero .emptyFallback), fun _ => .inr ⟨rfl, rfl, hst, hcd, len, rfl⟩⟩

/-- Settles O40: a decode writes the counters and the draws, or the error record, PHASE and at most one draw. -/
theorem frameOfDecodes : Obligations.FrameOfDecodes := by
  intro i s t hi h
  rcases exec_next_cases h with hok | herr
  · obtain ⟨r, fb1, fb2, zs, rfl, -, hdec⟩ := hok.write.of_decode hi
    rw [takeDraws_eq]
    exact ⟨rfl, fun hd => by rw [hdec hd]; rfl, fun _ _ _ => ⟨rfl, rfl, rfl⟩⟩
  · obtain ⟨e, u, rfl, -, rfl | rfl⟩ := herr.write <;>
      exact ⟨rfl, fun _ => rfl, fun _ hr h0 => absurd (by cases hr; exact h0) e.code_ne_zero⟩

end Sys2Proof.Machine

/-! The commands that make and unmake a code, past their checks: NOP, RESET, CONSTRUCT, LDSYM, SEAL
(spec/45_construct_and_access.md R280 to R296). -/

namespace Sys2Proof.Machine

/-- Settles O9: each field of the cleared state is that of reset, or the state's own. -/
theorem resetCommandClearsTheBlock : Obligations.ResetCommandClearsTheBlock :=
  fun s => ⟨s.cleared.answered {}, rfl, rfl, rfl, rfl, rfl, rfl, rfl, rfl, rfl, rfl, rfl, rfl, rfl, rfl, rfl, rfl, rfl,
    rfl, rfl⟩

/-- Settles O12: NOP has one word, its encoding, and that is the all-zero word. -/
theorem nopOnlyResponds : Obligations.NopOnlyResponds := by
  refine ⟨fun _ => rfl, fun symw w => ?_⟩
  have hword : encode .nop = 0 := by decide
  rw [decode_eq_ok_iff, hword, eq_comm]
  exact and_iff_left rfl

theorem gate_inEmpty_pass {s : State} {run : Result} (hp : s.phase = .empty) : gate inEmpty s run = run :=
  gate_pass (by simp [hp]) (by simp [inEmpty, hp])

theorem gate_inLoading_pass {s : State} {run : Result} (hp : s.phase = .loading) : gate inLoading s run = run :=
  gate_pass (by simp [hp]) (by simp [inLoading, hp])

/-! CONSTRUCT (R285, R286). -/

section

variable {k n : BitVec 8} {s : State} (hp : s.phase = .empty)
include hp

theorem exec_construct_of_invalid (h : k = 0 ∨ n = 0 ∨ n.toNat ≤ k.toNat) :
    exec (.construct k n) s = raise .invalidParameters s := by
  show execConstruct k n s = _
  rw [execConstruct, gate_inEmpty_pass hp, if_pos h]

/-- Parameters with 0 < k < n leave the capacities as the only check. -/
theorem exec_construct_of_valid (hk : k ≠ 0) (hkn : k.toNat < n.toNat) :
    exec (.construct k n) s =
      if s.caps.nMax < n.toNat ∨ s.caps.rMax < n.toNat - k.toNat then raise .capacityExceeded s
      else respond { val := (s.constructed k n).stCount.zeroExtend 32 } (s.constructed k n) := by
  have hn : n ≠ 0 := by rintro rfl; exact Nat.not_lt_zero _ hkn
  show execConstruct k n s = _
  rw [execConstruct, gate_inEmpty_pass hp, if_neg (not_or.mpr ⟨hk, not_or.mpr ⟨hn, hkn.not_ge⟩⟩)]

end

/-- Settles O18: parameters out of order are refused first, then those beyond a capacity. -/
theorem constructChecksItsParameters : Obligations.ConstructChecksItsParameters := by
  refine fun k n s hp => ⟨exec_construct_of_invalid hp, fun hk hkn hcaps => ?_⟩
  rw [exec_construct_of_valid hp hk hkn, if_pos hcaps]
  rfl

/-- With at most 16 parity bits the candidates, and so the entries, are counted in 16 bits (10_state R30, R31). -/
theorem candidateTotal_lt {c : Caps} {k n : Nat} (hcaps : c.wf) (hr : n - k ≤ c.rMax) :
    candidateTotal k n < 2 ^ 16 := by
  obtain ⟨-, -, -, hrMax, -⟩ := hcaps
  have hpow : 2 ^ (n - k) ≤ 2 ^ 16 := Nat.pow_le_pow_right (by decide) (hr.trans hrMax)
  have hpos := Nat.two_pow_pos (n - k)
  rw [candidateTotal]
  omega

theorem State.tableOf_length_le (s : State) (k n : BitVec 8) :
    (s.tableOf k n).ord.length ≤ candidateTotal k.toNat n.toNat :=
  buildSyndromeTable_ord_length_le ..

/-- Settles O19: past both checks CONSTRUCT writes the builders' output, whose counts fit their registers. -/
theorem constructBuildsTheCode : Obligations.ConstructBuildsTheCode := by
  intro k n s hcaps hp hk hkn hn hr
  have htotal := candidateTotal_lt hcaps hr
  have hentries := (s.tableOf_length_le k n).trans_lt htotal
  have hcount : (BitVec.ofNat 16 (s.tableOf k n).ord.length).toNat = (s.tableOf k n).ord.length :=
    Nat.mod_eq_of_lt hentries
  refine ⟨_, _, s.tableOf k n, _, BitVec.ofNat 16 (candidateTotal k.toNat n.toNat), rfl, rfl, rfl, hcount,
    Nat.mod_eq_of_lt htotal, ?_⟩
  have hval : (s.constructed k n).stCount.zeroExtend 32 = BitVec.ofNat 32 (s.tableOf k n).ord.length :=
    (BitVec.ofNat_toNat 32 _).symm.trans (congrArg _ hcount)
  rw [exec_construct_of_valid hp hk hkn, if_neg (by omega), hval]
  rfl

/-! LDSYM and SEAL (R292, R296). -/

/-- Under the invariant G and the dictionary are there, so LDSYM goes on to its own two checks. -/
theorem exec_ldsym_of_loading {len : BitVec 8} {sym : Symbol} {s : State} {c : Bits} (hi : s.Inv)
    (hp : s.phase = .loading) (hlen : len.toNat = s.kVal) (hc : c = vecmat (unpack s.kVal s.din.toNat) s.g) :
    exec (.ldsym len sym) s =
      if s.cd.any (fun entry => entry.cw == c) then raise .duplicateCodeword s
      else if s.cdCount.toNat = s.caps.aMax then raise .capacityExceeded s
      else respond { dout := onPort c, sym := sym, val := s.cdCount.zeroExtend 32 } (s.withEntry s.cd c sym) := by
  subst hc
  have hne : s.phase ≠ .empty := by simp [hp]
  show execLdsym len sym s = _
  rw [execLdsym, gate_inLoading_pass hp, if_neg (not_not.mpr hlen), hi.genMatrix_eq hne, withStored_some,
    hi.dictionary_eq hne, withStored_some]
  rfl

/-- Settles O20, by the two checks of LDSYM in their order. -/
theorem ldsymAddsOneEntry : Obligations.LdsymAddsOneEntry := by
  intro len sym s hi hp hlen c hc
  rw [exec_ldsym_of_loading hi hp hlen hc]
  refine ⟨fun hdup => ?_, fun hfresh hfull => ?_, fun hfresh hroom => ?_⟩
  · rw [if_pos (by simpa using hdup)]
    rfl
  · rw [if_neg (by simpa using hfresh), if_pos hfull]
    rfl
  · rw [if_neg (by simpa using hfresh), if_neg hroom, BitVec.ofNat_toNat]
    rfl

/-- Settles O21: in LOADING the gate lets SEAL pass, and it makes no check of its own. -/
theorem sealMakesReady : Obligations.SealMakesReady := by
  intro s hp
  show execSeal s = _
  rw [execSeal, gate_inLoading_pass hp, BitVec.ofNat_toNat]
  rfl

end Sys2Proof.Machine

/-! RDM and RDCD past their checks, and the repeated issue of a reader (spec/45_construct_and_access.md R300, R306,
R315). -/

namespace Sys2Proof.Machine

theorem exec_rdm_of_row {sel : Sel} {idx : BitVec 16} {s : State} {m : Matrix} {row : Bits}
    (hp : s.phase = .loading ∨ s.phase = .ready) (hidx : idx.toNat < s.viewRows sel) (hm : s.view sel = some m)
    (hrow : m.rows[idx.toNat]? = some row) : exec (.rdm sel idx) s = respond { dout := onPort row } s := by
  show execRdm sel idx s = _
  rw [execRdm, gate_inBuilt_check_pass hp hidx.not_ge, hm, Option.bind_some, hrow, withStored_some]

/-- Settles O24: the view has its shape, so a row inside it is there and has the view's columns. -/
theorem rdmReadsOneRow : Obligations.RdmReadsOneRow := by
  intro sel idx s hi hp hidx
  obtain ⟨hne, -⟩ := built_phase hp
  obtain ⟨hrows, -, hcols⟩ := hasShape_iff.mp (hi.view_shape hne sel)
  have hlt : idx.toNat < (viewOf s.g s.h sel).rows.length := hrows ▸ hidx
  have hrow := List.getElem?_eq_getElem hlt
  exact ⟨_, hrow, hcols _ (List.getElem_mem hlt),
    exec_rdm_of_row hp (viewRows_eq_rowsOf s sel ▸ hidx) (hi.view_eq hne sel) hrow⟩

theorem exec_rdcd_of_entry {idx : BitVec 16} {s : State} {e : Entry} (hp : s.phase = .loading ∨ s.phase = .ready)
    (hidx : idx.toNat < s.cdCount.toNat) (he : (s.dictionary.bind fun cd => cd[idx.toNat]?) = some e) :
    exec (.rdcd idx) s = respond { dout := onPort e.cw, sym := e.sym } s := by
  show execRdcd idx s = _
  rw [execRdcd, gate_inBuilt_check_pass hp hidx.not_ge, he, withStored_some]

/-- Settles O27: under the invariant every index below CD_COUNT holds an entry. -/
theorem rdcdReadsOneEntry : Obligations.RdcdReadsOneEntry := by
  intro idx s hi hp hidx
  obtain ⟨hne, -⟩ := built_phase hp
  obtain ⟨e, he⟩ := hi.dictionary_entry_eq hne hidx
  refine ⟨e, ?_, exec_rdcd_of_entry hp hidx he⟩
  rwa [hi.dictionary_eq hne] at he

/-- A reader does not read the response given before it. -/
theorem exec_answered_of_reader {i : Instr} {s : State} (r : Response) (hi : isReader i = true) :
    exec i (s.answered r) = exec i s := by
  cases i with
  | nop | mul _ _ | wt _ | rdm _ _ | rdst _ | rdsto _ | rdcd _ | rdreg _ => rfl
  | reset | construct _ _ | ldsym _ _ | sealCode | dec _ | decl _ => cases hi

/-- Settles O43: a reader that ended OK leaves the state with its response, which it does not read. -/
theorem readersAreIdempotent : Obligations.ReadersAreIdempotent := by
  intro i s t r hi h hr h0
  obtain ⟨r', rfl⟩ := (exec_next_ok h hr h0).write.of_reader hi
  rw [exec_answered_of_reader r' hi, h]

end Sys2Proof.Machine

/-! The frames of CONSTRUCT, LDSYM, SEAL and RESET (spec/45_construct_and_access.md R281, R285, R292, R296). -/

namespace Sys2Proof.Machine

/-- A command that takes no draw raises its error on the state before. -/
theorem ErrorEffect.of_not_decl {i : Instr} {s t : State} (h : ErrorEffect i s t) (hi : ∀ len, i ≠ .decl len) :
    ∃ e, t = s.afterError e ∧ ErrorCause i s e := by
  obtain ⟨e, u, rfl, hc, rfl | ⟨-, -, -, -, len, rfl⟩⟩ := h
  · exact ⟨e, rfl, hc⟩
  · exact absurd rfl (hi len)

/-- CONSTRUCT compares no length, so its errors leave PHASE. -/
theorem ErrorCause.construct_phaseAfter {k n : BitVec 8} {s : State} {e : ErrorCode}
    (h : ErrorCause (.construct k n) s e) : phaseAfter e s.phase = s.phase := by
  rw [phaseAfter_eq, if_neg]
  rintro rfl
  obtain ⟨-, ⟨⟩⟩ := h

/-- What a CONSTRUCT leaves: the code that it built, or the error record of its refusal. -/
theorem exec_construct_leaves {k n : BitVec 8} {s t : State} (h : exec (.construct k n) s = .next t) :
    (s.phase = .empty ∧ ∃ r, t = (s.constructed k n).answered r) ∨
      ∃ e, phaseAfter e s.phase = s.phase ∧ t = s.afterError e := by
  rcases exec_next_cases h with ⟨hp, -, -, -, -, ht⟩ | herr
  · exact .inl ⟨hp, _, ht⟩
  · obtain ⟨e, ht, hc⟩ := herr.of_not_decl (by simp)
    exact .inr ⟨e, hc.construct_phaseAfter, ht⟩

/-- What an LDSYM leaves: one more entry at the end of the dictionary, or the error record of its refusal. -/
theorem exec_ldsym_leaves {len : BitVec 8} {sym : Symbol} {s t : State} (h : exec (.ldsym len sym) s = .next t) :
    (∃ c r, t = (s.withEntry s.cd c sym).answered r) ∨ ∃ e, t = s.afterError e := by
  rcases exec_next_cases h with ⟨-, -, _, cd, -, hcd, -, -, ht⟩ | herr
  · obtain ⟨rfl, -⟩ := State.dictionary_eq_some hcd
    exact .inl ⟨_, _, ht⟩
  · obtain ⟨e, ht, -⟩ := herr.of_not_decl (by simp)
    exact .inr ⟨e, ht⟩

theorem exec_seal_leaves {s t : State} (h : exec .sealCode s = .next t) :
    (∃ r, t = s.sealedOff.answered r) ∨ ∃ e, t = s.afterError e := by
  rcases exec_next_cases h with ⟨-, ht⟩ | herr
  · exact .inl ⟨_, ht⟩
  · obtain ⟨e, ht, -⟩ := herr.of_not_decl (by simp)
    exact .inr ⟨e, ht⟩

/-- Settles O41, by what each command leaves. -/
theorem frameOfConstruction : Obligations.FrameOfConstruction := by
  refine fun s t => ⟨fun k n h => ?_, fun len sym h => ?_, fun h => ?_, fun h => ?_⟩
  · obtain ⟨hp, r, rfl⟩ | ⟨e, hphase, rfl⟩ := exec_construct_leaves h
    · exact ⟨rfl, rfl, rfl, rfl, rfl, rfl, rfl, rfl, rfl, fun _ _ => ⟨rfl, rfl⟩, fun hne => absurd hp hne⟩
    · refine ⟨rfl, rfl, rfl, rfl, rfl, rfl, rfl, rfl, rfl, fun hp hl => ?_, fun _ => by rw [State.afterError, hphase]⟩
      rw [State.afterError_phase, hphase, hp] at hl
      cases hl
  · obtain ⟨c, r, rfl⟩ | ⟨e, rfl⟩ := exec_ldsym_leaves h
    · exact ⟨rfl, .inr ⟨c, rfl, rfl, rfl, rfl, rfl⟩⟩
    · exact ⟨rfl, .inl ⟨rfl, rfl⟩⟩
  · obtain ⟨r, rfl⟩ | ⟨e, rfl⟩ := exec_seal_leaves h <;> rfl
  · obtain rfl := respond_next_iff.mp h
    exact ⟨rfl, rfl, rfl, rfl, rfl, rfl⟩

end Sys2Proof.Machine

/-! Errors (spec/60_exceptions.md R331, R340, R345): what an error leaves, and which command raises which code. -/

namespace Sys2Proof.Machine

/-- What 60_exceptions R340 writes, field by field. -/
theorem State.afterError_eq (e : ErrorCode) (s : State) :
    s.afterError e = { s with
      phase := if e = .dimensionMismatch then .faulted else s.phase
      errbits := s.errbits ||| (1#10 <<< e.code.toNat), lastErr := e.code
      resp := some { status := e.code } } := by
  rw [State.afterError, phaseAfter_eq]
  rfl

theorem step_of_reserved {s : State} {w : Word} {d : PortVec} {rest : List HostEvent} {why : Reserved}
    (hin : s.inbox = .command w d :: rest) (hdec : decode s.caps.symw w = .error why) :
    step s = raise .illegalCommand ((s.withInbox rest).sampled d) := by
  rw [step_of_inbox hin]
  simp only [runEvent, runCommand, State.withInbox_caps, hdec]

/-- Settles O6: the error record of IllegalCommand, which leaves PHASE. -/
theorem reservedWordIsIllegalCommand : Obligations.ReservedWordIsIllegalCommand :=
  fun _ _ _ _ _ hin hdec => step_of_reserved hin hdec

/-- A step whose command ends with an error leaves the error record alone, or the one draw that a DECL takes before its
EmptyFallback. -/
theorem step_error_leaves {s t : State} {w : Word} {d : PortVec} {rest : List HostEvent} {r : Response}
    (hin : s.inbox = .command w d :: rest) (h : step s = .next t) (hr : t.resp = some r) (h0 : r.status ≠ 0) :
    (∃ e, t = ((s.withInbox rest).sampled d).afterError e) ∨
      (t = ((s.withInbox rest).sampled d).afterDraw.afterError .emptyFallback ∧
        ∃ len, decode s.caps.symw w = .ok (.decl len)) := by
  cases hdec : decode s.caps.symw w with
  | error why =>
    rw [step_of_reserved hin hdec] at h
    exact .inl ⟨_, raise_next_iff.mp h⟩
  | ok i =>
    rw [stepRunsTheDecodedInstruction s w d rest i hin hdec] at h
    obtain ⟨e, u, ht, -, rfl | ⟨rfl, rfl, -, -, len, rfl⟩⟩ := exec_next_error h hr h0
    · exact .inl ⟨e, ht⟩
    · exact .inr ⟨ht, len, rfl⟩

/-- Settles O13: the error is recorded on the state before the command, or on that state with one draw taken. -/
theorem errorsArePrecise : Obligations.ErrorsArePrecise := by
  intro s t w d rest r hin h hr h0
  obtain ⟨e, rfl⟩ | ⟨rfl, hdecl⟩ := step_error_leaves hin h hr h0 <;> cases hr
  · exact ⟨e, s.draws, s.drawCount, rfl, State.afterError_eq e _, .inl ⟨rfl, rfl⟩⟩
  · exact ⟨.emptyFallback, s.draws.tail, s.drawCount + 1, rfl, State.afterError_eq _ _, .inr ⟨rfl, rfl, rfl, hdecl⟩⟩

/-! The commands that each check concerns (20_memory R67, 10_state R23). -/

theorem dimensionFails_command {k n : Nat} {i : Instr} (h : dimensionFails k n i = true) :
    (∃ len sel, i = .mul len sel) ∨ (∃ len sym, i = .ldsym len sym) ∨ (∃ len, i = .dec len) ∨
      ∃ len, i = .decl len := by
  cases i with
  | mul | ldsym | dec | decl => simp
  | nop | reset | construct | sealCode | wt | rdm | rdst | rdsto | rdcd | rdreg => cases h

theorem rangeFails_command {s : State} {i : Instr} (h : rangeFails s i = true) :
    (∃ len, i = .wt len) ∨ (∃ sel idx, i = .rdm sel idx) ∨ (∃ idx, i = .rdst idx) ∨ (∃ idx, i = .rdsto idx) ∨
      (∃ idx, i = .rdcd idx) ∨ ∃ idx, i = .rdreg idx := by
  cases i with
  | wt | rdm | rdst | rdsto | rdcd | rdreg => simp
  | nop | reset | construct | ldsym | sealCode | mul | dec | decl => cases h

theorem admission_wp_command {i : Instr} {p : Phase} (h : admission i p = .wp) :
    i ≠ .nop ∧ i ≠ .reset ∧ (∀ idx, i ≠ .rdreg idx) ∧ ∀ len, i ≠ .wt len := by
  cases i with
  | nop | reset | rdreg | wt => cases p <;> cases h
  | construct | ldsym | sealCode | mul | rdm | rdst | rdsto | rdcd | dec | decl => simp

theorem admission_f_command {i : Instr} {p : Phase} (h : admission i p = .f) :
    p = .faulted ∧ i ≠ .nop ∧ i ≠ .reset ∧ ∀ idx, i ≠ .rdreg idx := by
  cases i with
  | nop | reset | rdreg => cases p <;> cases h
  | construct | ldsym | sealCode | mul | wt | rdm | rdst | rdsto | rdcd | dec | decl =>
    cases p <;> cases h
    simp

theorem exec_status_le_nine {i : Instr} {s t : State} {r : Response} (h : exec i s = .next t)
    (hr : t.resp = some r) : r.status.toNat ≤ 9 := by
  rcases exec_next_cases h with hok | herr
  · simp [hok.status hr]
  · obtain ⟨e, rfl, -⟩ := herr.status hr
    exact e.code_le_nine

/-- The cause of the error whose code a command answers. -/
theorem errorCause_of_code {i : Instr} {s t : State} {r : Response} (h : exec i s = .next t) (hr : t.resp = some r)
    (e : ErrorCode) (hst : r.status = e.code) : ErrorCause i s e := by
  obtain ⟨-, hc, -⟩ := errorCause_of_status h hr hst
  exact hc

/-- Settles O14: the causes of 60_exceptions R331, code by code. -/
theorem errorsComeFromTheirCommands : Obligations.ErrorsComeFromTheirCommands := by
  intro i s t r h hr
  have cause := errorCause_of_code h hr
  refine ⟨exec_status_le_nine h hr, cause .illegalCommand, fun h1 => ?_, fun h2 => ?_, fun h4 => ?_, fun h5 => ?_,
    fun h6 => ?_, fun h7 => ?_, fun h8 => ?_, fun h9 => ?_⟩
  · exact (cause .invalidParameters h1).2
  · exact dimensionFails_command (cause .dimensionMismatch h2).2
  · exact admission_wp_command (cause .wrongPhase h4)
  · exact rangeFails_command (cause .rangeError h5).2
  · exact (cause .capacityExceeded h6).imp And.right And.right
  · exact (cause .duplicateCodeword h7).2
  · exact (cause .emptyFallback h8).imp And.right And.right
  · exact admission_f_command (cause .faulted h9)

end Sys2Proof.Machine

/-! Waiting and the reset input, between commands and during one (spec/70_reset_and_hazards.md R380 to R384). -/

namespace Sys2Proof.Machine

theorem step_of_inbox_nil {s : State} (h : s.inbox = []) : step s = .next s.idle := by
  simp only [step, stepEvent, h]

/-- Settles O7: an empty inbox leaves the step nothing to run. -/
theorem stepWaitsWithoutACommand : Obligations.StepWaitsWithoutACommand :=
  fun _ h => step_of_inbox_nil h

theorem step_of_resetInput {s : State} {rest : List HostEvent} (h : s.inbox = .resetInput :: rest) :
    step s = .next (s.withInbox rest).cleared :=
  step_of_inbox h

/-- Settles O10: each field of the cleared state is that of reset, or the state's own, and RESET only adds its response. -/
theorem resetInputClearsTheBlock : Obligations.ResetInputClearsTheBlock :=
  fun s rest h => ⟨(s.withInbox rest).cleared, step_of_resetInput h, rfl, rfl, rfl, rfl, rfl, rfl, rfl, rfl, rfl, rfl,
    rfl, rfl, rfl, rfl, rfl, rfl, rfl, rfl⟩

/-- Where the command would have completed in `u`, the reset keeps its first draws, at most `taken`, and clears the
rest (R383). -/
theorem step_of_resetDuring {s u : State} {w : Word} {d : PortVec} {taken : Nat} {rest : List HostEvent}
    (h : s.inbox = .resetDuring w d taken :: rest) (hrun : runCommand w d (s.withInbox rest) = .next u) :
    step s = .next ((takeDraws (min taken (u.drawCount - s.drawCount)) (s.withInbox rest)).sampled d).cleared := by
  rw [step_of_inbox h]
  simp only [runEvent, resetDuringCommand, resetByInput, hrun, drawsTaken, State.withInbox_drawCount]

/-- Settles O11: the draws kept are those of `takeDraws`, and clearing forgets all else that the command did. -/
theorem resetDuringACommandAbandonsIt : Obligations.ResetDuringACommandAbandonsIt := by
  intro s u w d taken rest h hu
  have hrun : runCommand w d (s.withInbox rest) = .next u := by rwa [step_of_inbox rfl] at hu
  refine ⟨_, step_of_resetDuring h hrun, rfl, takeDraws_draws _ _, takeDraws_drawCount _ _, ?_⟩
  rw [step_of_resetInput rfl, takeDraws_eq]
  rfl

end Sys2Proof.Machine

/-! The response given before a command is not read (spec/10_state.md R37, spec/70_reset_and_hazards.md R397): the decoder
hands it on unread in the state, and the end of every command, OK or an error, replaces it. -/

namespace Sys2Proof.Machine

/-- The state with another response standing for the step before. -/
def State.withResp (r : Option Response) (s : State) : State :=
  { s with resp := r }

/-- A stop, with `r` as the response before on the state it raises its error on. -/
def Stop.withResp (r : Option Response) : Stop → Stop
  | .error e s => .error e (s.withResp r)
  | .absent m => .absent m

/-- How a step of the decoder ends, with `r` as the response before. -/
def endingWithResp {α : Type} (r : Option Response) : Except Stop (α × State) → Except Stop (α × State)
  | .ok (a, s) => .ok (a, s.withResp r)
  | .error stop => .error (stop.withResp r)

section

variable {r : Option Response} {s : State}

theorem Stop.withResp_result (stop : Stop) : (stop.withResp r).result = stop.result := by
  cases stop <;> rfl

@[simp] theorem State.withResp_st : (s.withResp r).st = s.st := rfl
@[simp] theorem State.withResp_stCount : (s.withResp r).stCount = s.stCount := rfl
@[simp] theorem State.withResp_cdCount : (s.withResp r).cdCount = s.cdCount := rfl
theorem State.parityMatrix_withResp : (s.withResp r).parityMatrix = s.parityMatrix := rfl
theorem State.dictionary_withResp : (s.withResp r).dictionary = s.dictionary := rfl
theorem State.errAt_withResp (t : Nat) : (s.withResp r).errAt t = s.errAt t := rfl
theorem State.drawValue_withResp : (s.withResp r).drawValue = s.drawValue := rfl
theorem State.operand_withResp (len : Nat) : (s.withResp r).operand len = s.operand len := rfl
theorem State.nVal_withResp : (s.withResp r).nVal = s.nVal := rfl

theorem syndromeFallback_withResp : syndromeFallback (s.withResp r) = endingWithResp r (syndromeFallback s) := by
  unfold syndromeFallback
  rw [State.withResp_stCount, State.errAt_withResp, State.drawValue_withResp]
  split
  · rfl
  · cases s.errAt (s.drawValue % s.stCount.toNat) <;> rfl

theorem chooseError_withResp (a : Nat) : chooseError a (s.withResp r) = endingWithResp r (chooseError a s) := by
  unfold chooseError
  rw [State.withResp_st]
  split
  · rfl
  · cases s.st.read a with
    | some e => rfl
    | none => exact syndromeFallback_withResp

theorem locateError_withResp (y : Bits) : locateError y (s.withResp r) = endingWithResp r (locateError y s) := by
  unfold locateError
  rw [State.parityMatrix_withResp]
  cases s.parityMatrix with
  | none => rfl
  | some h => exact chooseError_withResp _

theorem resolveSymbol_withResp (x : Bits) : resolveSymbol x (s.withResp r) = endingWithResp r (resolveSymbol x s) := by
  unfold resolveSymbol
  rw [State.dictionary_withResp]
  cases s.dictionary with
  | none => rfl
  | some cd =>
    dsimp only
    cases cd.find? fun entry => entry.cw == x with
    | some entry => rfl
    | none =>
      dsimp only
      rw [State.withResp_cdCount, State.drawValue_withResp]
      split
      · rfl
      · cases cd[s.drawValue % s.cdCount.toNat]? <;> rfl

theorem gate_withResp {allowed : Phase → Bool} {run run' : Result} (h : run = run') :
    gate allowed (s.withResp r) run = gate allowed s run' := by
  subst h; rfl

theorem check_withResp {p : Prop} [Decidable p] {e : ErrorCode} {run run' : Result} (h : run = run') :
    (if p then raise e (s.withResp r) else run) = if p then raise e s else run' := by
  subst h; rfl

theorem execDec_withResp (len : BitVec 8) : execDec len (s.withResp r) = execDec len s := by
  refine gate_withResp (check_withResp ?_)
  rw [State.operand_withResp, State.nVal_withResp, locateError_withResp]
  cases locateError (s.operand s.nVal) s with
  | error stop => exact stop.withResp_result
  | ok located => rfl

theorem execDecl_withResp (len : BitVec 8) : execDecl len (s.withResp r) = execDecl len s := by
  refine gate_withResp (check_withResp ?_)
  rw [State.operand_withResp, State.nVal_withResp, locateError_withResp]
  cases locateError (s.operand s.nVal) s with
  | error stop => exact stop.withResp_result
  | ok located =>
    obtain ⟨c, t⟩ := located
    dsimp only [endingWithResp]
    rw [resolveSymbol_withResp]
    cases resolveSymbol (vadd c.err (s.operand s.nVal)) t with
    | error stop => exact stop.withResp_result
    | ok resolved => rfl

end

/-- Settles O44: only a decode hands the state on from step to step; every other meaning reads its fields, and the response
is none of them. -/
theorem responsesAreNotRead : Obligations.ResponsesAreNotRead := by
  intro i s r
  cases i with
  | nop | reset | construct _ _ | ldsym _ _ | sealCode | mul _ _ | wt _ | rdm _ _ | rdst _ | rdsto _ | rdcd _
  | rdreg _ => rfl
  | dec len => exact execDec_withResp len
  | decl len => exact execDecl_withResp len

end Sys2Proof.Machine
